-- ==== Sys2Proof/Word.lean ====
section
/-! DEFINITION. The two data widths of the machine (`00_scope.md` R7): the 16-bit word and the 8-bit byte. -/

namespace Sys2Proof

/-- A 16-bit word: registers, the status register, addresses, instruction words (R7, R12). -/
abbrev Word := BitVec 16

/-- An 8-bit byte, the unit that one memory address names (R7, R60). -/
abbrev Byte := BitVec 8

end Sys2Proof
end

