-- ==== Sys2Proof/Config.lean ====
section
/-! DEFINITION. What an installation fixes (the parameters of `00_scope.md` R8, as plain data that `State` carries) and
the free values (constants with no body) that stand for what the spec leaves open. -/

namespace Sys2Proof

/-- `MODEL`: the seven processors of the bulletin (R1, R3). -/
inductive Model where
  | m1110 | m1110A | m1110B | m1111A | m1111B | m1112A | m1112B
  deriving DecidableEq, Repr

/-- Models that implement SKEY: all but the 1110 basic (R2, R45). Whether the 1110 drives key bits at all is not said (R45); in
this model every access carries `State.key`, on the 1110 too: DESIGN CHOICE, assumption log 22. -/
def Model.hasKey : Model → Bool
  | .m1110 => false
  | .m1110A | .m1110B | .m1111A | .m1111B | .m1112A | .m1112B => true

/-- The B series, on which FCLW and FCLB fetch and clear (R2, R117). -/
def Model.isBSeries : Model → Bool
  | .m1110B | .m1111B | .m1112B => true
  | .m1110 | .m1110A | .m1111A | .m1112A => false

/-- Models with the decimal and character set, class C (R2). -/
def Model.isDecimal : Model → Bool
  | .m1111A | .m1111B => true
  | .m1110 | .m1110A | .m1110B | .m1112A | .m1112B => false

/-- Models with the scientific set: class B and the additions to classes 0, 4 and A (R2). -/
def Model.isScientific : Model → Bool
  | .m1112A | .m1112B => true
  | .m1110 | .m1110A | .m1110B | .m1111A | .m1111B => false

/-- Operand and transfer widths (R7, R62, R63). -/
inductive Width where
  | word | byte
  deriving DecidableEq, Repr

/-- The four system interrupt levels (R460). -/
inductive SysLevel where
  | l1 | l2 | l3 | l4
  deriving DecidableEq, Repr

/-- The six interrupt levels: four system levels and the two self-interrupts (R460). -/
inductive Level where
  | system (l : SysLevel)
  | unimplemented
  | abort
  deriving DecidableEq, Repr

/-- `PC_OPERAND` (R27): the value seen when register 0 is read as data. `unstated` is a free value at every read; it
stands for the spec's `refuse` (assumption log 2). -/
inductive PcOperand where
  | current | next | unstated
  deriving DecidableEq, Repr

/-- `TRAP_SAVED_PC` (R474): the value a level-5 or level-6 entry stores at block + 4. `unstated` is the spec's
`refuse`: the stored word is any value. -/
inductive TrapSavedPc where
  | current | afterFirst | next | unstated
  deriving DecidableEq, Repr

/-- `ENTRY_STATUS` (R476): the identity (the spec's default), or any function whatever (`Config.entryStatus`). -/
inductive EntryStatus where
  | identity | unstated
  deriving DecidableEq, Repr

/-- A run of words that answers on the bus: `words` words from word number `first` (word number = byte address / 2, so
that the set is closed under pairing, R76), for accesses that carry a key in `keys` (bit k of `keys`: key k; all ones
is `KEY_EFFECT` = ignored, R80). -/
structure MemRange where
  first : Nat
  words : Nat
  keys  : BitVec 4
  deriving DecidableEq, Repr

/-- The parameters of R8 that an installation fixes. -/
structure Params where
  /-- `MODEL` (R3). -/
  model       : Model
  /-- `CPU_ID` (R46, R470). -/
  cpuId       : BitVec 2
  /-- `MEM_PRESENT` with `KEY_EFFECT` (R76, R80). -/
  memory      : List MemRange
  /-- Addresses below F000 that the platform gives to the device oracle (R78). -/
  devices     : List MemRange
  /-- `PC_OPERAND` (R27). -/
  pcOperand   : PcOperand
  /-- `TRAP_SAVED_PC` (R474). -/
  trapSavedPc : TrapSavedPc
  /-- `ENTRY_STATUS` (R476). -/
  entryStatus : EntryStatus
  /-- `INT_PRIORITY` (R483): the first listed level that is pending and enabled is taken. -/
  priority    : List SysLevel
  deriving DecidableEq, Repr

/-- One access that reaches the `DEVICE` oracle (R78), with the key bits it carries (R80). `data` is the value written,
`none` for a read. -/
structure DeviceAccess where
  addr  : Word
  width : Width
  key   : BitVec 2
  data  : Option Word
  deriving DecidableEq, Repr

/-- What the `DEVICE` oracle does with one access (R78): nothing answers; or something answers, with the value read
(ignored for a write) and the memory bytes that a block transfer changes. -/
inductive DeviceReply where
  | noAnswer
  | answer (value : Word) (transfer : List Host.Cell)
  deriving DecidableEq, Repr, Inhabited

/-- FREE VALUE: the n-th word that the spec leaves open. -/
opaque Config.freeWord : Nat → Word

/-- FREE VALUE: the n-th choice between two outcomes that the spec leaves open. -/
opaque Config.freeBit : Nat → Bool

/-- FREE VALUE: `ENTRY_STATUS` where it is not the identity (R476; bit 11 is kept 1 by the entry itself). -/
opaque Config.entryStatus : Level → Word → Word

/-- FREE VALUE: the `DEVICE` oracle (R78), a function of every access made so far, the newest first. -/
opaque Config.deviceReply : List DeviceAccess → DeviceReply

end Sys2Proof
end

