-- ==== Sys2Proof/Syntax.lean ====
section
/-! DEFINITION. The instructions: one constructor of `Instr` per row of spec/opcode_table.json (the two rows, absolute and
relative, of STSM, REGM, RETN, MSTS and MREG are one constructor with the address mode as an operand; the 19 "(trap)" rows
are one constructor with the word as its operand), and the small types that name operands and the families' operations. Bits
that an encoding ignores or shows as 0 are kept as operands, except HALT's. -/

namespace Sys2Proof

/-- A general register, 0 to 7; register 0 is the program counter (R20, R21). -/
inductive Reg where
  | r0 | r1 | r2 | r3 | r4 | r5 | r6 | r7
  deriving DecidableEq, Repr

/-- The operand fields of a memory-addressing format: I, the second word (present exactly when E = 1), XR (R101, R141). -/
structure MemOp where
  /-- I: indirect. -/
  ind : Bool
  /-- W2, the extended address; `none` is E = 0. -/
  ext : Option Word
  /-- XR; register 0 means no indexing. -/
  xr  : Reg
  deriving DecidableEq, Repr

/-- The second word of a class C instruction (R120, R321); `bit7` and `bit3` are the bits the format shows as 0. -/
structure DecOperands where
  l1   : BitVec 4
  /-- L2, or S in the shift format. -/
  l2   : BitVec 4
  bit7 : Bool
  x1   : Reg
  bit3 : Bool
  x2   : Reg
  deriving DecidableEq, Repr

/-- The six memory classes of the general register instructions (R102, R182 to R189). -/
inductive GrClass where
  | load | loadInc | loadDec | store | storeInc | storeDec
  deriving DecidableEq, Repr

/-- The eight general operations (R110). -/
inductive GrOp where
  | mov | sub | add | and | ior | eor | cmp | tst
  deriving DecidableEq, Repr

/-- The tested branch conditions T = 1 to C (R220). -/
inductive Cond where
  | eq | gt | ov | cy | f1 | f2 | f3 | lp | od | ze | ng | lt
  deriving DecidableEq, Repr

/-- The eight shifts (R242): direction, then arithmetic open, logical linked, logical open, logical closed. -/
inductive ShiftOp where
  | lao | lll | llo | llc | rao | rll | rlo | rlc
  deriving DecidableEq, Repr

/-- The four normalizes (R390): left arithmetic, left logical, right arithmetic, right logical. -/
inductive NormOp where
  | la | ll | ra | rl
  deriving DecidableEq, Repr

/-- The control instructions with a D field (R274). -/
inductive DirectOp where
  | stsm | regm | retn | msts | mreg
  deriving DecidableEq, Repr

/-- The address mode of a control instruction with a D field (R105, R106, R274). -/
inductive AddrMode where
  | absolute | relative
  deriving DecidableEq, Repr

/-- The bit manipulation operations (R360). -/
inductive BitOp where
  | rbit | sbit | cbit | ibit | tsbt | tbit
  deriving DecidableEq, Repr

/-- The register move operations (R375). -/
inductive MoveOp where
  | negt | cplm | movp | movn
  deriving DecidableEq, Repr

/-- The class B operations by operation code (R118): `mult` is OP = 3, MLTA or MULT by the parity of AR. -/
inductive FixedOp where
  | dsta | dsub | dadd | mult | divd | dlod
  deriving DecidableEq, Repr

/-- The class C operations (R120). -/
inductive DecimalOp where
  | zadd | addd | subd | cmpd | sftr | movr | sftl | movl | comp
  deriving DecidableEq, Repr

/-- The instructions by the rows of spec/opcode_table.json, in its order; the rows without operands stand last. -/
inductive Instr where
  /-- MOVW: class 7, memory to accumulator, word (R174, R182). -/
  | movwLoad (ar : Reg) (m : MemOp)
  /-- SUBW: class 7, memory to accumulator, word (R175, R182). -/
  | subwLoad (ar : Reg) (m : MemOp)
  /-- ADDW: class 7, memory to accumulator, word (R176, R182). -/
  | addwLoad (ar : Reg) (m : MemOp)
  /-- ANDW: class 7, memory to accumulator, word (R178, R182). -/
  | andwLoad (ar : Reg) (m : MemOp)
  /-- IORW: class 7, memory to accumulator, word (R179, R182). -/
  | iorwLoad (ar : Reg) (m : MemOp)
  /-- EORW: class 7, memory to accumulator, word (R180, R182). -/
  | eorwLoad (ar : Reg) (m : MemOp)
  /-- CMPW: class 7, memory to accumulator, word (R177, R182). -/
  | cmpwLoad (ar : Reg) (m : MemOp)
  /-- TSTW: class 7, memory to accumulator, word (R181, R182). -/
  | tstwLoad (ar : Reg) (m : MemOp)
  /-- MOVB: class 7, memory to accumulator, byte (R174, R182). -/
  | movbLoad (ar : Reg) (m : MemOp)
  /-- SUBB: class 7, memory to accumulator, byte (R175, R182). -/
  | subbLoad (ar : Reg) (m : MemOp)
  /-- ADDB: class 7, memory to accumulator, byte (R176, R182). -/
  | addbLoad (ar : Reg) (m : MemOp)
  /-- ANDB: class 7, memory to accumulator, byte (R178, R182). -/
  | andbLoad (ar : Reg) (m : MemOp)
  /-- IORB: class 7, memory to accumulator, byte (R179, R182). -/
  | iorbLoad (ar : Reg) (m : MemOp)
  /-- EORB: class 7, memory to accumulator, byte (R180, R182). -/
  | eorbLoad (ar : Reg) (m : MemOp)
  /-- CMPB: class 7, memory to accumulator, byte (R177, R182). -/
  | cmpbLoad (ar : Reg) (m : MemOp)
  /-- TSTB: class 7, memory to accumulator, byte (R181, R182). -/
  | tstbLoad (ar : Reg) (m : MemOp)
  /-- MOVW: class 6, memory to accumulator, auto increment, word (R174, R183). -/
  | movwLoadInc (ar : Reg) (m : MemOp)
  /-- SUBW: class 6, memory to accumulator, auto increment, word (R175, R183). -/
  | subwLoadInc (ar : Reg) (m : MemOp)
  /-- ADDW: class 6, memory to accumulator, auto increment, word (R176, R183). -/
  | addwLoadInc (ar : Reg) (m : MemOp)
  /-- ANDW: class 6, memory to accumulator, auto increment, word (R178, R183). -/
  | andwLoadInc (ar : Reg) (m : MemOp)
  /-- IORW: class 6, memory to accumulator, auto increment, word (R179, R183). -/
  | iorwLoadInc (ar : Reg) (m : MemOp)
  /-- EORW: class 6, memory to accumulator, auto increment, word (R180, R183). -/
  | eorwLoadInc (ar : Reg) (m : MemOp)
  /-- CMPW: class 6, memory to accumulator, auto increment, word (R177, R183). -/
  | cmpwLoadInc (ar : Reg) (m : MemOp)
  /-- TSTW: class 6, memory to accumulator, auto increment, word (R181, R183). -/
  | tstwLoadInc (ar : Reg) (m : MemOp)
  /-- MOVB: class 6, memory to accumulator, auto increment, byte (R174, R183). -/
  | movbLoadInc (ar : Reg) (m : MemOp)
  /-- SUBB: class 6, memory to accumulator, auto increment, byte (R175, R183). -/
  | subbLoadInc (ar : Reg) (m : MemOp)
  /-- ADDB: class 6, memory to accumulator, auto increment, byte (R176, R183). -/
  | addbLoadInc (ar : Reg) (m : MemOp)
  /-- ANDB: class 6, memory to accumulator, auto increment, byte (R178, R183). -/
  | andbLoadInc (ar : Reg) (m : MemOp)
  /-- IORB: class 6, memory to accumulator, auto increment, byte (R179, R183). -/
  | iorbLoadInc (ar : Reg) (m : MemOp)
  /-- EORB: class 6, memory to accumulator, auto increment, byte (R180, R183). -/
  | eorbLoadInc (ar : Reg) (m : MemOp)
  /-- CMPB: class 6, memory to accumulator, auto increment, byte (R177, R183). -/
  | cmpbLoadInc (ar : Reg) (m : MemOp)
  /-- TSTB: class 6, memory to accumulator, auto increment, byte (R181, R183). -/
  | tstbLoadInc (ar : Reg) (m : MemOp)
  /-- MOVW: class 5, memory to accumulator, auto decrement, word (R174, R184). -/
  | movwLoadDec (ar : Reg) (m : MemOp)
  /-- SUBW: class 5, memory to accumulator, auto decrement, word (R175, R184). -/
  | subwLoadDec (ar : Reg) (m : MemOp)
  /-- ADDW: class 5, memory to accumulator, auto decrement, word (R176, R184). -/
  | addwLoadDec (ar : Reg) (m : MemOp)
  /-- ANDW: class 5, memory to accumulator, auto decrement, word (R178, R184). -/
  | andwLoadDec (ar : Reg) (m : MemOp)
  /-- IORW: class 5, memory to accumulator, auto decrement, word (R179, R184). -/
  | iorwLoadDec (ar : Reg) (m : MemOp)
  /-- EORW: class 5, memory to accumulator, auto decrement, word (R180, R184). -/
  | eorwLoadDec (ar : Reg) (m : MemOp)
  /-- CMPW: class 5, memory to accumulator, auto decrement, word (R177, R184). -/
  | cmpwLoadDec (ar : Reg) (m : MemOp)
  /-- TSTW: class 5, memory to accumulator, auto decrement, word (R181, R184). -/
  | tstwLoadDec (ar : Reg) (m : MemOp)
  /-- MOVB: class 5, memory to accumulator, auto decrement, byte (R174, R184). -/
  | movbLoadDec (ar : Reg) (m : MemOp)
  /-- SUBB: class 5, memory to accumulator, auto decrement, byte (R175, R184). -/
  | subbLoadDec (ar : Reg) (m : MemOp)
  /-- ADDB: class 5, memory to accumulator, auto decrement, byte (R176, R184). -/
  | addbLoadDec (ar : Reg) (m : MemOp)
  /-- ANDB: class 5, memory to accumulator, auto decrement, byte (R178, R184). -/
  | andbLoadDec (ar : Reg) (m : MemOp)
  /-- IORB: class 5, memory to accumulator, auto decrement, byte (R179, R184). -/
  | iorbLoadDec (ar : Reg) (m : MemOp)
  /-- EORB: class 5, memory to accumulator, auto decrement, byte (R180, R184). -/
  | eorbLoadDec (ar : Reg) (m : MemOp)
  /-- CMPB: class 5, memory to accumulator, auto decrement, byte (R177, R184). -/
  | cmpbLoadDec (ar : Reg) (m : MemOp)
  /-- TSTB: class 5, memory to accumulator, auto decrement, byte (R181, R184). -/
  | tstbLoadDec (ar : Reg) (m : MemOp)
  /-- MOVW: class 3, accumulator to memory, word (R174, R185). -/
  | movwStore (ar : Reg) (m : MemOp)
  /-- SUBW: class 3, accumulator to memory, word (R175, R185). -/
  | subwStore (ar : Reg) (m : MemOp)
  /-- ADDW: class 3, accumulator to memory, word (R176, R185). -/
  | addwStore (ar : Reg) (m : MemOp)
  /-- ANDW: class 3, accumulator to memory, word (R178, R185). -/
  | andwStore (ar : Reg) (m : MemOp)
  /-- IORW: class 3, accumulator to memory, word (R179, R185). -/
  | iorwStore (ar : Reg) (m : MemOp)
  /-- EORW: class 3, accumulator to memory, word (R180, R185). -/
  | eorwStore (ar : Reg) (m : MemOp)
  /-- CMPW: class 3, accumulator to memory, word (R177, R185). -/
  | cmpwStore (ar : Reg) (m : MemOp)
  /-- TSTW: class 3, accumulator to memory, word (R181, R185). -/
  | tstwStore (ar : Reg) (m : MemOp)
  /-- MOVB: class 3, accumulator to memory, byte (R174, R185). -/
  | movbStore (ar : Reg) (m : MemOp)
  /-- SUBB: class 3, accumulator to memory, byte (R175, R185). -/
  | subbStore (ar : Reg) (m : MemOp)
  /-- ADDB: class 3, accumulator to memory, byte (R176, R185). -/
  | addbStore (ar : Reg) (m : MemOp)
  /-- ANDB: class 3, accumulator to memory, byte (R178, R185). -/
  | andbStore (ar : Reg) (m : MemOp)
  /-- IORB: class 3, accumulator to memory, byte (R179, R185). -/
  | iorbStore (ar : Reg) (m : MemOp)
  /-- EORB: class 3, accumulator to memory, byte (R180, R185). -/
  | eorbStore (ar : Reg) (m : MemOp)
  /-- CMPB: class 3, accumulator to memory, byte (R177, R185). -/
  | cmpbStore (ar : Reg) (m : MemOp)
  /-- TSTB: class 3, accumulator to memory, byte (R181, R185). -/
  | tstbStore (ar : Reg) (m : MemOp)
  /-- MOVW: class 2, accumulator to memory, auto increment, word (R174, R188). -/
  | movwStoreInc (ar : Reg) (m : MemOp)
  /-- SUBW: class 2, accumulator to memory, auto increment, word (R175, R188). -/
  | subwStoreInc (ar : Reg) (m : MemOp)
  /-- ADDW: class 2, accumulator to memory, auto increment, word (R176, R188). -/
  | addwStoreInc (ar : Reg) (m : MemOp)
  /-- ANDW: class 2, accumulator to memory, auto increment, word (R178, R188). -/
  | andwStoreInc (ar : Reg) (m : MemOp)
  /-- IORW: class 2, accumulator to memory, auto increment, word (R179, R188). -/
  | iorwStoreInc (ar : Reg) (m : MemOp)
  /-- EORW: class 2, accumulator to memory, auto increment, word (R180, R188). -/
  | eorwStoreInc (ar : Reg) (m : MemOp)
  /-- CMPW: class 2, accumulator to memory, auto increment, word (R177, R188). -/
  | cmpwStoreInc (ar : Reg) (m : MemOp)
  /-- TSTW: class 2, accumulator to memory, auto increment, word (R181, R188). -/
  | tstwStoreInc (ar : Reg) (m : MemOp)
  /-- MOVB: class 2, accumulator to memory, auto increment, byte (R174, R188). -/
  | movbStoreInc (ar : Reg) (m : MemOp)
  /-- SUBB: class 2, accumulator to memory, auto increment, byte (R175, R188). -/
  | subbStoreInc (ar : Reg) (m : MemOp)
  /-- ADDB: class 2, accumulator to memory, auto increment, byte (R176, R188). -/
  | addbStoreInc (ar : Reg) (m : MemOp)
  /-- ANDB: class 2, accumulator to memory, auto increment, byte (R178, R188). -/
  | andbStoreInc (ar : Reg) (m : MemOp)
  /-- IORB: class 2, accumulator to memory, auto increment, byte (R179, R188). -/
  | iorbStoreInc (ar : Reg) (m : MemOp)
  /-- EORB: class 2, accumulator to memory, auto increment, byte (R180, R188). -/
  | eorbStoreInc (ar : Reg) (m : MemOp)
  /-- CMPB: class 2, accumulator to memory, auto increment, byte (R177, R188). -/
  | cmpbStoreInc (ar : Reg) (m : MemOp)
  /-- TSTB: class 2, accumulator to memory, auto increment, byte (R181, R188). -/
  | tstbStoreInc (ar : Reg) (m : MemOp)
  /-- MOVW: class 1, accumulator to memory, auto decrement, word (R174, R189). -/
  | movwStoreDec (ar : Reg) (m : MemOp)
  /-- SUBW: class 1, accumulator to memory, auto decrement, word (R175, R189). -/
  | subwStoreDec (ar : Reg) (m : MemOp)
  /-- ADDW: class 1, accumulator to memory, auto decrement, word (R176, R189). -/
  | addwStoreDec (ar : Reg) (m : MemOp)
  /-- ANDW: class 1, accumulator to memory, auto decrement, word (R178, R189). -/
  | andwStoreDec (ar : Reg) (m : MemOp)
  /-- IORW: class 1, accumulator to memory, auto decrement, word (R179, R189). -/
  | iorwStoreDec (ar : Reg) (m : MemOp)
  /-- EORW: class 1, accumulator to memory, auto decrement, word (R180, R189). -/
  | eorwStoreDec (ar : Reg) (m : MemOp)
  /-- CMPW: class 1, accumulator to memory, auto decrement, word (R177, R189). -/
  | cmpwStoreDec (ar : Reg) (m : MemOp)
  /-- TSTW: class 1, accumulator to memory, auto decrement, word (R181, R189). -/
  | tstwStoreDec (ar : Reg) (m : MemOp)
  /-- MOVB: class 1, accumulator to memory, auto decrement, byte (R174, R189). -/
  | movbStoreDec (ar : Reg) (m : MemOp)
  /-- SUBB: class 1, accumulator to memory, auto decrement, byte (R175, R189). -/
  | subbStoreDec (ar : Reg) (m : MemOp)
  /-- ADDB: class 1, accumulator to memory, auto decrement, byte (R176, R189). -/
  | addbStoreDec (ar : Reg) (m : MemOp)
  /-- ANDB: class 1, accumulator to memory, auto decrement, byte (R178, R189). -/
  | andbStoreDec (ar : Reg) (m : MemOp)
  /-- IORB: class 1, accumulator to memory, auto decrement, byte (R179, R189). -/
  | iorbStoreDec (ar : Reg) (m : MemOp)
  /-- EORB: class 1, accumulator to memory, auto decrement, byte (R180, R189). -/
  | eorbStoreDec (ar : Reg) (m : MemOp)
  /-- CMPB: class 1, accumulator to memory, auto decrement, byte (R177, R189). -/
  | cmpbStoreDec (ar : Reg) (m : MemOp)
  /-- TSTB: class 1, accumulator to memory, auto decrement, byte (R181, R189). -/
  | tstbStoreDec (ar : Reg) (m : MemOp)
  /-- JUMP: R186. -/
  | jump (m : MemOp)
  /-- JSBR: R187. -/
  | jsbr (ar : Reg) (m : MemOp)
  /-- MOVW: class 4, register form (R174, R190). -/
  | movwReg (ar : Reg) (xr : Reg)
  /-- SUBW: class 4, register form (R175, R190). -/
  | subwReg (ar : Reg) (xr : Reg)
  /-- ADDW: class 4, register form (R176, R190). -/
  | addwReg (ar : Reg) (xr : Reg)
  /-- ANDW: class 4, register form (R178, R190). -/
  | andwReg (ar : Reg) (xr : Reg)
  /-- IORW: class 4, register form (R179, R190). -/
  | iorwReg (ar : Reg) (xr : Reg)
  /-- EORW: class 4, register form (R180, R190). -/
  | eorwReg (ar : Reg) (xr : Reg)
  /-- CMPW: class 4, register form (R177, R190). -/
  | cmpwReg (ar : Reg) (xr : Reg)
  /-- TSTW: class 4, register form (R181, R190). -/
  | tstwReg (ar : Reg) (xr : Reg)
  /-- MOVW: class 4, literal form (R174, R191). -/
  | movwLit (ar : Reg) (xr : Reg) (lit : Word)
  /-- SUBW: class 4, literal form (R175, R191). -/
  | subwLit (ar : Reg) (xr : Reg) (lit : Word)
  /-- ADDW: class 4, literal form (R176, R191). -/
  | addwLit (ar : Reg) (xr : Reg) (lit : Word)
  /-- ANDW: class 4, literal form (R178, R191). -/
  | andwLit (ar : Reg) (xr : Reg) (lit : Word)
  /-- IORW: class 4, literal form (R179, R191). -/
  | iorwLit (ar : Reg) (xr : Reg) (lit : Word)
  /-- EORW: class 4, literal form (R180, R191). -/
  | eorwLit (ar : Reg) (xr : Reg) (lit : Word)
  /-- CMPW: class 4, literal form (R177, R191). -/
  | cmpwLit (ar : Reg) (xr : Reg) (lit : Word)
  /-- TSTW: class 4, literal form (R181, R191). -/
  | tstwLit (ar : Reg) (xr : Reg) (lit : Word)
  /-- MOVW: class 4, immediate form (R174, R192). -/
  | movwImm (ar : Reg) (k : BitVec 4)
  /-- SUBW: class 4, immediate form (R175, R192). -/
  | subwImm (ar : Reg) (k : BitVec 4)
  /-- ADDW: class 4, immediate form (R176, R192). -/
  | addwImm (ar : Reg) (k : BitVec 4)
  /-- ANDW: class 4, immediate form (R178, R192). -/
  | andwImm (ar : Reg) (k : BitVec 4)
  /-- IORW: class 4, immediate form (R179, R192). -/
  | iorwImm (ar : Reg) (k : BitVec 4)
  /-- EORW: class 4, immediate form (R180, R192). -/
  | eorwImm (ar : Reg) (k : BitVec 4)
  /-- CMPW: class 4, immediate form (R177, R192). -/
  | cmpwImm (ar : Reg) (k : BitVec 4)
  /-- TSTW: class 4, immediate form (R181, R192). -/
  | tstwImm (ar : Reg) (k : BitVec 4)
  /-- NOPR: R225. -/
  | nopr (d : BitVec 8)
  /-- BRUN: R226. -/
  | brun (d : BitVec 8)
  /-- BEQT: class 9: branch when EQ is true (R227, R221, R222, R223). -/
  | beqt (d : BitVec 8)
  /-- BEQF: class 8: branch when EQ is false (R227, R221, R222, R223). -/
  | beqf (d : BitVec 8)
  /-- BGTT: class 9: branch when GT is true (R228, R221, R222, R223). -/
  | bgtt (d : BitVec 8)
  /-- BGTF: class 8: branch when GT is false (R228, R221, R222, R223). -/
  | bgtf (d : BitVec 8)
  /-- BOVT: class 9: branch when OV is true (R229, R221, R222, R223). -/
  | bovt (d : BitVec 8)
  /-- BOVF: class 8: branch when OV is false (R229, R221, R222, R223). -/
  | bovf (d : BitVec 8)
  /-- BCYT: class 9: branch when CY is true (R230, R221, R222, R223). -/
  | bcyt (d : BitVec 8)
  /-- BCYF: class 8: branch when CY is false (R230, R221, R222, R223). -/
  | bcyf (d : BitVec 8)
  /-- BF1T: class 9: branch when F1 is true (R231, R221, R222, R223). -/
  | bf1t (d : BitVec 8)
  /-- BF1F: class 8: branch when F1 is false (R231, R221, R222, R223). -/
  | bf1f (d : BitVec 8)
  /-- BF2T: class 9: branch when F2 is true (R231, R221, R222, R223). -/
  | bf2t (d : BitVec 8)
  /-- BF2F: class 8: branch when F2 is false (R231, R221, R222, R223). -/
  | bf2f (d : BitVec 8)
  /-- BF3T: class 9: branch when F3 is true (R231, R221, R222, R223). -/
  | bf3t (d : BitVec 8)
  /-- BF3F: class 8: branch when F3 is false (R231, R221, R222, R223). -/
  | bf3f (d : BitVec 8)
  /-- BLPT: class 9: branch when LP is true (R232, R221, R222, R223). -/
  | blpt (d : BitVec 8)
  /-- BLPF: class 8: branch when LP is false (R232, R221, R222, R223). -/
  | blpf (d : BitVec 8)
  /-- BODT: class 9: branch when OD is true (R233, R221, R222, R223). -/
  | bodt (d : BitVec 8)
  /-- BODF: class 8: branch when OD is false (R233, R221, R222, R223). -/
  | bodf (d : BitVec 8)
  /-- BZET: class 9: branch when ZE is true (R234, R221, R222, R223). -/
  | bzet (d : BitVec 8)
  /-- BZEF: class 8: branch when ZE is false (R234, R221, R222, R223). -/
  | bzef (d : BitVec 8)
  /-- BNGT: class 9: branch when NG is true (R235, R221, R222, R223). -/
  | bngt (d : BitVec 8)
  /-- BNGF: class 8: branch when NG is false (R235, R221, R222, R223). -/
  | bngf (d : BitVec 8)
  /-- BLTT: class 9: branch when LT is true (R236, R221, R222, R223). -/
  | bltt (d : BitVec 8)
  /-- BLTF: class 8: branch when LT is false (R236, R221, R222, R223). -/
  | bltf (d : BitVec 8)
  /-- SLAO: count in a register (R245, R240, R241). -/
  | slaoX (ar : Reg) (xr : Reg)
  /-- SLAO: count K (R245, R240, R241). -/
  | slaoK (ar : Reg) (k : BitVec 4)
  /-- SLLL: count in a register (R246, R240, R241). -/
  | slllX (ar : Reg) (xr : Reg)
  /-- SLLL: count K (R246, R240, R241). -/
  | slllK (ar : Reg) (k : BitVec 4)
  /-- SLLO: count in a register (R247, R240, R241). -/
  | slloX (ar : Reg) (xr : Reg)
  /-- SLLO: count K (R247, R240, R241). -/
  | slloK (ar : Reg) (k : BitVec 4)
  /-- SLLC: count in a register (R248, R240, R241). -/
  | sllcX (ar : Reg) (xr : Reg)
  /-- SLLC: count K (R248, R240, R241). -/
  | sllcK (ar : Reg) (k : BitVec 4)
  /-- SRAO: count in a register (R249, R240, R241). -/
  | sraoX (ar : Reg) (xr : Reg)
  /-- SRAO: count K (R249, R240, R241). -/
  | sraoK (ar : Reg) (k : BitVec 4)
  /-- SRLL: count in a register (R250, R240, R241). -/
  | srllX (ar : Reg) (xr : Reg)
  /-- SRLL: count K (R250, R240, R241). -/
  | srllK (ar : Reg) (k : BitVec 4)
  /-- SRLO: count in a register (R251, R240, R241). -/
  | srloX (ar : Reg) (xr : Reg)
  /-- SRLO: count K (R251, R240, R241). -/
  | srloK (ar : Reg) (k : BitVec 4)
  /-- SRLC: count in a register (R252, R240, R241). -/
  | srlcX (ar : Reg) (xr : Reg)
  /-- SRLC: count K (R252, R240, R241). -/
  | srlcK (ar : Reg) (k : BitVec 4)
  /-- SLAN: single length (R393, R391). -/
  | slan (ar : Reg) (xr : Reg)
  /-- SLLN: single length (R394, R391). -/
  | slln (ar : Reg) (xr : Reg)
  /-- SRAN: single length (R395, R391). -/
  | sran (ar : Reg) (xr : Reg)
  /-- SRLN: single length (R396, R391). -/
  | srln (ar : Reg) (xr : Reg)
  /-- DLAN: double length (R397, R391). -/
  | dlan (ar : Reg) (xr : Reg)
  /-- DLLN: double length (R398, R391). -/
  | dlln (ar : Reg) (xr : Reg)
  /-- DRAN: double length (R399, R391). -/
  | dran (ar : Reg) (xr : Reg)
  /-- DRLN: double length (R400, R391). -/
  | drln (ar : Reg) (xr : Reg)
  /-- DLAO: count in a register (R408, R405, R406). -/
  | dlaoX (ar : Reg) (xr : Reg)
  /-- DLAO: count K (R408, R405, R406). -/
  | dlaoK (pair : BitVec 2) (k : BitVec 5)
  /-- DLLL: count in a register (R409, R405, R406). -/
  | dlllX (ar : Reg) (xr : Reg)
  /-- DLLL: count K (R409, R405, R406). -/
  | dlllK (pair : BitVec 2) (k : BitVec 5)
  /-- DLLO: count in a register (R410, R405, R406). -/
  | dlloX (ar : Reg) (xr : Reg)
  /-- DLLO: count K (R410, R405, R406). -/
  | dlloK (pair : BitVec 2) (k : BitVec 5)
  /-- DLLC: count in a register (R411, R405, R406). -/
  | dllcX (ar : Reg) (xr : Reg)
  /-- DLLC: count K (R411, R405, R406). -/
  | dllcK (pair : BitVec 2) (k : BitVec 5)
  /-- DRAO: count in a register (R412, R405, R406). -/
  | draoX (ar : Reg) (xr : Reg)
  /-- DRAO: count K (R412, R405, R406). -/
  | draoK (pair : BitVec 2) (k : BitVec 5)
  /-- DRLL: count in a register (R413, R405, R406). -/
  | drllX (ar : Reg) (xr : Reg)
  /-- DRLL: count K (R413, R405, R406). -/
  | drllK (pair : BitVec 2) (k : BitVec 5)
  /-- DRLO: count in a register (R414, R405, R406). -/
  | drloX (ar : Reg) (xr : Reg)
  /-- DRLO: count K (R414, R405, R406). -/
  | drloK (pair : BitVec 2) (k : BitVec 5)
  /-- DRLC: count in a register (R415, R405, R406). -/
  | drlcX (ar : Reg) (xr : Reg)
  /-- DRLC: count K (R415, R405, R406). -/
  | drlcK (pair : BitVec 2) (k : BitVec 5)
  /-- RSTS: R272. -/
  | rsts (f : BitVec 7)
  /-- SETS: R273. -/
  | sets (f : BitVec 7)
  /-- ENBL: R276. -/
  | enbl (k : BitVec 4)
  /-- ENBW: R278, R280. -/
  | enbw (k : BitVec 4)
  /-- DSBL: R277. -/
  | dsbl (k : BitVec 4)
  /-- DSBW: R279, R280. -/
  | dsbw (k : BitVec 4)
  /-- STSM: its two rows, absolute and relative address (R282, R274). -/
  | stsm (md : AddrMode) (d : BitVec 8)
  /-- REGM: its two rows, absolute and relative address (R283, R274). -/
  | regm (md : AddrMode) (d : BitVec 8)
  /-- RETN: its two rows, absolute and relative address (R284, R274). -/
  | retn (md : AddrMode) (d : BitVec 8)
  /-- MSTS: its two rows, absolute and relative address (R285, R274). -/
  | msts (md : AddrMode) (d : BitVec 8)
  /-- MREG: its two rows, absolute and relative address (R286, R274). -/
  | mreg (md : AddrMode) (d : BitVec 8)
  /-- FCLW: R290, R292. -/
  | fclw (ar : Reg) (m : MemOp)
  /-- FCLB: R291, R292. -/
  | fclb (ar : Reg) (m : MemOp)
  /-- SKEY: R295. -/
  | skey (k : BitVec 2)
  /-- JKEY: R296. -/
  | jkey (k : BitVec 2) (target : Word)
  /-- LCPU: R297. -/
  | lcpu (xr : Reg)
  /-- LKEY: R298. -/
  | lkey (xr : Reg)
  /-- RBIT: bit number in a register (R364, R360, R362, R363). -/
  | rbitX (ar : Reg) (xr : Reg)
  /-- RBIT: bit number K (R364, R360, R362, R363). -/
  | rbitK (ar : Reg) (k : BitVec 4)
  /-- RBIT: mask word (R364, R360, R362, R363). -/
  | rbitM (ar : Reg) (xr : Reg) (mask : Word)
  /-- SBIT: bit number in a register (R365, R360, R362, R363). -/
  | sbitX (ar : Reg) (xr : Reg)
  /-- SBIT: bit number K (R365, R360, R362, R363). -/
  | sbitK (ar : Reg) (k : BitVec 4)
  /-- SBIT: mask word (R365, R360, R362, R363). -/
  | sbitM (ar : Reg) (xr : Reg) (mask : Word)
  /-- CBIT: bit number in a register (R366, R360, R362, R363). -/
  | cbitX (ar : Reg) (xr : Reg)
  /-- CBIT: bit number K (R366, R360, R362, R363). -/
  | cbitK (ar : Reg) (k : BitVec 4)
  /-- CBIT: mask word (R366, R360, R362, R363). -/
  | cbitM (ar : Reg) (xr : Reg) (mask : Word)
  /-- IBIT: bit number in a register (R367, R360, R362, R363). -/
  | ibitX (ar : Reg) (xr : Reg)
  /-- IBIT: bit number K (R367, R360, R362, R363). -/
  | ibitK (ar : Reg) (k : BitVec 4)
  /-- IBIT: mask word (R367, R360, R362, R363). -/
  | ibitM (ar : Reg) (xr : Reg) (mask : Word)
  /-- TSBT: bit number in a register (R368, R360, R362, R363). -/
  | tsbtX (ar : Reg) (xr : Reg)
  /-- TSBT: bit number K (R368, R360, R362, R363). -/
  | tsbtK (ar : Reg) (k : BitVec 4)
  /-- TSBT: mask word (R368, R360, R362, R363). -/
  | tsbtM (ar : Reg) (xr : Reg) (mask : Word)
  /-- TBIT: bit number in a register (R369, R360, R362, R363). -/
  | tbitX (ar : Reg) (xr : Reg)
  /-- TBIT: bit number K (R369, R360, R362, R363). -/
  | tbitK (ar : Reg) (k : BitVec 4)
  /-- TBIT: mask word (R369, R360, R362, R363). -/
  | tbitM (ar : Reg) (xr : Reg) (mask : Word)
  /-- NEGT: R377, R376. -/
  | negt (ar : Reg) (xr : Reg)
  /-- CPLM: R378, R376. -/
  | cplm (ar : Reg) (xr : Reg)
  /-- MOVP: R379, R376. -/
  | movp (ar : Reg) (xr : Reg)
  /-- MOVN: R380, R376. -/
  | movn (ar : Reg) (xr : Reg)
  /-- DSTA: R441, R431, R432. -/
  | dsta (ar : Reg) (m : MemOp)
  /-- DSUB: R443, R431, R432. -/
  | dsub (ar : Reg) (m : MemOp)
  /-- DADD: R442, R431, R432. -/
  | dadd (ar : Reg) (m : MemOp)
  /-- DIVD: R437, R431, R432. -/
  | divd (ar : Reg) (m : MemOp)
  /-- DLOD: R440, R431, R432. -/
  | dlod (ar : Reg) (m : MemOp)
  /-- MLTA: AR even (R436, R431, R432). -/
  | mlta (ar : Reg) (m : MemOp)
  /-- MULT: AR odd (R435, R431, R432). -/
  | mult (ar : Reg) (m : MemOp)
  /-- ZADD: R330, R321 to R324. -/
  | zadd (reg1 : Reg) (reg2 : Reg) (o : DecOperands)
  /-- ADDD: R331, R321 to R324. -/
  | addd (reg1 : Reg) (reg2 : Reg) (o : DecOperands)
  /-- SUBD: R332, R321 to R324. -/
  | subd (reg1 : Reg) (reg2 : Reg) (o : DecOperands)
  /-- CMPD: R336, R321 to R324. -/
  | cmpd (reg1 : Reg) (reg2 : Reg) (o : DecOperands)
  /-- SFTR: R337, R321 to R324. -/
  | sftr (reg1 : Reg) (reg2 : Reg) (o : DecOperands)
  /-- MOVR: R338, R321 to R324. -/
  | movr (reg1 : Reg) (reg2 : Reg) (o : DecOperands)
  /-- SFTL: R339, R321 to R324. -/
  | sftl (reg1 : Reg) (reg2 : Reg) (o : DecOperands)
  /-- MOVL: R340, R321 to R324. -/
  | movl (reg1 : Reg) (reg2 : Reg) (o : DecOperands)
  /-- COMP: R341, R321 to R324. -/
  | comp (reg1 : Reg) (reg2 : Reg) (o : DecOperands)
  /-- (trap): the 19 rows that only trap: class 8 and 9 with T = D, E, F; class C with OP = 0, 1, 6, 7, D, E, F; a class that the model does not implement; the default row (R121, R122). -/
  | trap (w : Word)
  /-- HALT: R271; the low byte is ignored (R123). -/
  | halt
  /-- WAIT: the ENBW word with K = 0 (R281, R280). -/
  | waitE
  /-- WAIT: the DSBW word with K = 0 (R281, R280). -/
  | waitD
  deriving DecidableEq, Repr

/-- Odd register numbers (R430: MULT has AR odd, MLTA even). -/
def Reg.isOdd : Reg → Bool
  | .r1 | .r3 | .r5 | .r7 => true
  | .r0 | .r2 | .r4 | .r6 => false

end Sys2Proof
end

