-- ==== Sys2Proof/WellFormed.lean ====
section
/-! DEFINITION. Which terms of `Instr` are instructions of a given processor model: the row's models (R2, R3, R121), and the
constraints that the opcode table puts on a row. -/

namespace Sys2Proof

/-- An encoding to which the source assigns no instruction and no behaviour on a model: the list of `30_encoding.md` R122, with FCLW and
FCLB on the 1110 basic (R121 f). -/
def undefinedEncoding (mdl : Model) (w : Word) : Bool :=
  let h2 := w.extractLsb' 8 4
  let h3 := w.extractLsb' 4 4
  let op := w.extractLsb' 8 3
  match (w.extractLsb' 12 4).toNat with
  | 0 =>
    h2 == 10
    || (h2 == 6 || h2 == 14) && !mdl.hasKey
    || h2 == 8 &&
        (h3 == 1 && (!mdl.hasKey || w.getLsbD 2 || w.getLsbD 3 && !mdl.isScientific)
         || (h3 == 2 || h3 == 3) && (!mdl.isScientific || w.getLsbD 3)
         || !(h3 == 0 || h3 == 1 || h3 == 2 || h3 == 3 || h3 == 4 || h3 == 8 || h3 == 12))
  | 4 => !w.getLsbD 11 && op != 0 && !mdl.isScientific
  | 10 =>
    !mdl.isScientific && (w.getLsbD 11 || !w.getLsbD 7 && w.getLsbD 3)
    || mdl.isScientific && (!w.getLsbD 7 && w.getLsbD 3) && w.getLsbD 8
  | 11 => mdl.isScientific && (w.getLsbD 11 || op == 6 || op == 7)
  | 12 =>
    mdl.isDecimal && (w.getLsbD 7 || w.getLsbD 3) &&
      !(h2 == 0 || h2 == 1 || h2 == 6 || h2 == 7 || h2 == 13 || h2 == 14 || h2 == 15)
  | _ => false

/-- An encoding that a "(trap)" row of the opcode table takes on a model: cause a, b, c, d, f, j or k of R462. -/
def trapEncoding (mdl : Model) (w : Word) : Bool :=
  let t := (w.extractLsb' 8 4).toNat
  match (w.extractLsb' 12 4).toNat with
  | 8 | 9 => decide (13 ≤ t)
  | 11 => !mdl.isScientific || undefinedEncoding mdl w
  | 12 => !mdl.isDecimal || t == 0 || t == 1 || t == 6 || t == 7 || decide (13 ≤ t) || undefinedEncoding mdl w
  | 13 | 14 | 15 => true
  | _ => undefinedEncoding mdl w

/-- The row of an instruction belongs to the processor model (the table's `models` column; R2, R3). -/
def implementedOn (mdl : Model) : Instr → Bool
  | .movwLoad _ _ | .subwLoad _ _ | .addwLoad _ _ | .andwLoad _ _ | .iorwLoad _ _ | .eorwLoad _ _ | .cmpwLoad _ _
  | .tstwLoad _ _ | .movbLoad _ _ | .subbLoad _ _ | .addbLoad _ _ | .andbLoad _ _ | .iorbLoad _ _ | .eorbLoad _ _
  | .cmpbLoad _ _ | .tstbLoad _ _ | .movwLoadInc _ _ | .subwLoadInc _ _ | .addwLoadInc _ _ | .andwLoadInc _ _
  | .iorwLoadInc _ _ | .eorwLoadInc _ _ | .cmpwLoadInc _ _ | .tstwLoadInc _ _ | .movbLoadInc _ _ | .subbLoadInc _ _
  | .addbLoadInc _ _ | .andbLoadInc _ _ | .iorbLoadInc _ _ | .eorbLoadInc _ _ | .cmpbLoadInc _ _ | .tstbLoadInc _ _
  | .movwLoadDec _ _ | .subwLoadDec _ _ | .addwLoadDec _ _ | .andwLoadDec _ _ | .iorwLoadDec _ _ | .eorwLoadDec _ _
  | .cmpwLoadDec _ _ | .tstwLoadDec _ _ | .movbLoadDec _ _ | .subbLoadDec _ _ | .addbLoadDec _ _ | .andbLoadDec _ _
  | .iorbLoadDec _ _ | .eorbLoadDec _ _ | .cmpbLoadDec _ _ | .tstbLoadDec _ _ | .movwStore _ _ | .subwStore _ _
  | .addwStore _ _ | .andwStore _ _ | .iorwStore _ _ | .eorwStore _ _ | .cmpwStore _ _ | .tstwStore _ _
  | .movbStore _ _ | .subbStore _ _ | .addbStore _ _ | .andbStore _ _ | .iorbStore _ _ | .eorbStore _ _
  | .cmpbStore _ _ | .tstbStore _ _ | .movwStoreInc _ _ | .subwStoreInc _ _ | .addwStoreInc _ _ | .andwStoreInc _ _
  | .iorwStoreInc _ _ | .eorwStoreInc _ _ | .cmpwStoreInc _ _ | .tstwStoreInc _ _ | .movbStoreInc _ _
  | .subbStoreInc _ _ | .addbStoreInc _ _ | .andbStoreInc _ _ | .iorbStoreInc _ _ | .eorbStoreInc _ _
  | .cmpbStoreInc _ _ | .tstbStoreInc _ _ | .movwStoreDec _ _ | .subwStoreDec _ _ | .addwStoreDec _ _
  | .andwStoreDec _ _ | .iorwStoreDec _ _ | .eorwStoreDec _ _ | .cmpwStoreDec _ _ | .tstwStoreDec _ _
  | .movbStoreDec _ _ | .subbStoreDec _ _ | .addbStoreDec _ _ | .andbStoreDec _ _ | .iorbStoreDec _ _
  | .eorbStoreDec _ _ | .cmpbStoreDec _ _ | .tstbStoreDec _ _ | .jump _ | .jsbr _ _ | .movwReg _ _ | .subwReg _ _
  | .addwReg _ _ | .andwReg _ _ | .iorwReg _ _ | .eorwReg _ _ | .cmpwReg _ _ | .tstwReg _ _ | .movwLit _ _ _
  | .subwLit _ _ _ | .addwLit _ _ _ | .andwLit _ _ _ | .iorwLit _ _ _ | .eorwLit _ _ _ | .cmpwLit _ _ _
  | .tstwLit _ _ _ | .movwImm _ _ | .subwImm _ _ | .addwImm _ _ | .andwImm _ _ | .iorwImm _ _ | .eorwImm _ _
  | .cmpwImm _ _ | .tstwImm _ _ | .nopr _ | .brun _ | .beqt _ | .beqf _ | .bgtt _ | .bgtf _ | .bovt _ | .bovf _
  | .bcyt _ | .bcyf _ | .bf1t _ | .bf1f _ | .bf2t _ | .bf2f _ | .bf3t _ | .bf3f _ | .blpt _ | .blpf _ | .bodt _
  | .bodf _ | .bzet _ | .bzef _ | .bngt _ | .bngf _ | .bltt _ | .bltf _ | .slaoX _ _ | .slaoK _ _ | .slllX _ _
  | .slllK _ _ | .slloX _ _ | .slloK _ _ | .sllcX _ _ | .sllcK _ _ | .sraoX _ _ | .sraoK _ _ | .srllX _ _
  | .srllK _ _ | .srloX _ _ | .srloK _ _ | .srlcX _ _ | .srlcK _ _ | .rsts _ | .sets _ | .enbl _ | .enbw _ | .dsbl _
  | .dsbw _ | .stsm _ _ | .regm _ _ | .retn _ _ | .msts _ _ | .mreg _ _ | .halt | .waitE | .waitD => true
  | .slan _ _ | .slln _ _ | .sran _ _ | .srln _ _ | .dlan _ _ | .dlln _ _ | .dran _ _ | .drln _ _ | .dlaoX _ _
  | .dlaoK _ _ | .dlllX _ _ | .dlllK _ _ | .dlloX _ _ | .dlloK _ _ | .dllcX _ _ | .dllcK _ _ | .draoX _ _
  | .draoK _ _ | .drllX _ _ | .drllK _ _ | .drloX _ _ | .drloK _ _ | .drlcX _ _ | .drlcK _ _ | .jkey _ _ | .lcpu _
  | .lkey _ | .rbitX _ _ | .rbitK _ _ | .rbitM _ _ _ | .sbitX _ _ | .sbitK _ _ | .sbitM _ _ _ | .cbitX _ _
  | .cbitK _ _ | .cbitM _ _ _ | .ibitX _ _ | .ibitK _ _ | .ibitM _ _ _ | .tsbtX _ _ | .tsbtK _ _ | .tsbtM _ _ _
  | .tbitX _ _ | .tbitK _ _ | .tbitM _ _ _ | .negt _ _ | .cplm _ _ | .movp _ _ | .movn _ _ | .dsta _ _ | .dsub _ _
  | .dadd _ _ | .divd _ _ | .dlod _ _ | .mlta _ _ | .mult _ _ => mdl.isScientific
  | .fclw _ _ | .fclb _ _ => mdl.hasKey
  | .skey _ => mdl.hasKey
  | .zadd _ _ _ | .addd _ _ _ | .subd _ _ _ | .cmpd _ _ _ | .sftr _ _ _ | .movr _ _ _ | .sftl _ _ _ | .movl _ _ _
  | .comp _ _ _ => mdl.isDecimal
  | .trap w => trapEncoding mdl w

/-- The constraints on operands that the table's rows state (`constraint`), and the bits that a class C second word shows
as 0 (R322). JSBR has AR other than 0 (R111), ENBW and DSBW a K other than 0 (R281), MLTA an even and MULT an odd AR
(R430). -/
def operandsAllowed : Instr → Bool
  | .movwLoad _ _ | .subwLoad _ _ | .addwLoad _ _ | .andwLoad _ _ | .iorwLoad _ _ | .eorwLoad _ _ | .cmpwLoad _ _
  | .tstwLoad _ _ | .movbLoad _ _ | .subbLoad _ _ | .addbLoad _ _ | .andbLoad _ _ | .iorbLoad _ _ | .eorbLoad _ _
  | .cmpbLoad _ _ | .tstbLoad _ _ | .movwLoadInc _ _ | .subwLoadInc _ _ | .addwLoadInc _ _ | .andwLoadInc _ _
  | .iorwLoadInc _ _ | .eorwLoadInc _ _ | .cmpwLoadInc _ _ | .tstwLoadInc _ _ | .movbLoadInc _ _ | .subbLoadInc _ _
  | .addbLoadInc _ _ | .andbLoadInc _ _ | .iorbLoadInc _ _ | .eorbLoadInc _ _ | .cmpbLoadInc _ _ | .tstbLoadInc _ _
  | .movwLoadDec _ _ | .subwLoadDec _ _ | .addwLoadDec _ _ | .andwLoadDec _ _ | .iorwLoadDec _ _ | .eorwLoadDec _ _
  | .cmpwLoadDec _ _ | .tstwLoadDec _ _ | .movbLoadDec _ _ | .subbLoadDec _ _ | .addbLoadDec _ _ | .andbLoadDec _ _
  | .iorbLoadDec _ _ | .eorbLoadDec _ _ | .cmpbLoadDec _ _ | .tstbLoadDec _ _ | .movwStore _ _ | .subwStore _ _
  | .addwStore _ _ | .andwStore _ _ | .iorwStore _ _ | .eorwStore _ _ | .cmpwStore _ _ | .tstwStore _ _
  | .movbStore _ _ | .subbStore _ _ | .addbStore _ _ | .andbStore _ _ | .iorbStore _ _ | .eorbStore _ _
  | .cmpbStore _ _ | .tstbStore _ _ | .movwStoreInc _ _ | .subwStoreInc _ _ | .addwStoreInc _ _ | .andwStoreInc _ _
  | .iorwStoreInc _ _ | .eorwStoreInc _ _ | .cmpwStoreInc _ _ | .tstwStoreInc _ _ | .movbStoreInc _ _
  | .subbStoreInc _ _ | .addbStoreInc _ _ | .andbStoreInc _ _ | .iorbStoreInc _ _ | .eorbStoreInc _ _
  | .cmpbStoreInc _ _ | .tstbStoreInc _ _ | .movwStoreDec _ _ | .subwStoreDec _ _ | .addwStoreDec _ _
  | .andwStoreDec _ _ | .iorwStoreDec _ _ | .eorwStoreDec _ _ | .cmpwStoreDec _ _ | .tstwStoreDec _ _
  | .movbStoreDec _ _ | .subbStoreDec _ _ | .addbStoreDec _ _ | .andbStoreDec _ _ | .iorbStoreDec _ _
  | .eorbStoreDec _ _ | .cmpbStoreDec _ _ | .tstbStoreDec _ _ | .jump _ | .movwReg _ _ | .subwReg _ _ | .addwReg _ _
  | .andwReg _ _ | .iorwReg _ _ | .eorwReg _ _ | .cmpwReg _ _ | .tstwReg _ _ | .movwLit _ _ _ | .subwLit _ _ _
  | .addwLit _ _ _ | .andwLit _ _ _ | .iorwLit _ _ _ | .eorwLit _ _ _ | .cmpwLit _ _ _ | .tstwLit _ _ _
  | .movwImm _ _ | .subwImm _ _ | .addwImm _ _ | .andwImm _ _ | .iorwImm _ _ | .eorwImm _ _ | .cmpwImm _ _
  | .tstwImm _ _ | .nopr _ | .brun _ | .beqt _ | .beqf _ | .bgtt _ | .bgtf _ | .bovt _ | .bovf _ | .bcyt _ | .bcyf _
  | .bf1t _ | .bf1f _ | .bf2t _ | .bf2f _ | .bf3t _ | .bf3f _ | .blpt _ | .blpf _ | .bodt _ | .bodf _ | .bzet _
  | .bzef _ | .bngt _ | .bngf _ | .bltt _ | .bltf _ | .slaoX _ _ | .slaoK _ _ | .slllX _ _ | .slllK _ _ | .slloX _ _
  | .slloK _ _ | .sllcX _ _ | .sllcK _ _ | .sraoX _ _ | .sraoK _ _ | .srllX _ _ | .srllK _ _ | .srloX _ _
  | .srloK _ _ | .srlcX _ _ | .srlcK _ _ | .slan _ _ | .slln _ _ | .sran _ _ | .srln _ _ | .dlan _ _ | .dlln _ _
  | .dran _ _ | .drln _ _ | .dlaoX _ _ | .dlaoK _ _ | .dlllX _ _ | .dlllK _ _ | .dlloX _ _ | .dlloK _ _ | .dllcX _ _
  | .dllcK _ _ | .draoX _ _ | .draoK _ _ | .drllX _ _ | .drllK _ _ | .drloX _ _ | .drloK _ _ | .drlcX _ _
  | .drlcK _ _ | .rsts _ | .sets _ | .enbl _ | .dsbl _ | .stsm _ _ | .regm _ _ | .retn _ _ | .msts _ _ | .mreg _ _
  | .fclw _ _ | .fclb _ _ | .skey _ | .jkey _ _ | .lcpu _ | .lkey _ | .rbitX _ _ | .rbitK _ _ | .rbitM _ _ _
  | .sbitX _ _ | .sbitK _ _ | .sbitM _ _ _ | .cbitX _ _ | .cbitK _ _ | .cbitM _ _ _ | .ibitX _ _ | .ibitK _ _
  | .ibitM _ _ _ | .tsbtX _ _ | .tsbtK _ _ | .tsbtM _ _ _ | .tbitX _ _ | .tbitK _ _ | .tbitM _ _ _ | .negt _ _
  | .cplm _ _ | .movp _ _ | .movn _ _ | .dsta _ _ | .dsub _ _ | .dadd _ _ | .divd _ _ | .dlod _ _ | .trap _ | .halt
  | .waitE | .waitD => true
  | .jsbr ar _ => ar != .r0
  | .enbw k | .dsbw k => k != 0
  | .mlta ar _ => !ar.isOdd
  | .mult ar _ => ar.isOdd
  | .zadd _ _ o | .addd _ _ o | .subd _ _ o | .cmpd _ _ o | .sftr _ _ o | .movr _ _ o | .sftl _ _ o | .movl _ _ o
  | .comp _ _ o => !o.bit7 && !o.bit3

/-- The well-formed instructions of a model. The decoder answers no others, but for class C instructions whose second word
has a 1 in a bit shown as 0: their meaning traps. -/
def wellFormed (mdl : Model) (i : Instr) : Bool := implementedOn mdl i && operandsAllowed i

end Sys2Proof
end

