-- ==== Sys2Proof/Decode.lean ====
section
/-! DEFINITION. The instruction words: field extraction, the decoder (total: every word is some row's, R104, R111 to R122),
the encoder, the number of words, and the table's view of both. -/

namespace Sys2Proof

/-! ## Registers and fields -/

/-- The three-bit designator of a register (R22). -/
def Reg.bits : Reg → BitVec 3
  | .r0 => 0 | .r1 => 1 | .r2 => 2 | .r3 => 3 | .r4 => 4 | .r5 => 5 | .r6 => 6 | .r7 => 7

/-- The register a three-bit field designates (R22). -/
def regOf (b : BitVec 3) : Reg :=
  match b.toNat with
  | 0 => .r0 | 1 => .r1 | 2 => .r2 | 3 => .r3 | 4 => .r4 | 5 => .r5 | 6 => .r6 | _ => .r7

/-- C, the class (R101). -/
def fieldC (w : Word) : BitVec 4 := w.extractLsb' 12 4
/-- T, bits 11..8 (R101). -/
def fieldT (w : Word) : BitVec 4 := w.extractLsb' 8 4
/-- OP, bits 10..8 (R101). -/
def fieldOp (w : Word) : BitVec 3 := w.extractLsb' 8 3
/-- The third hexadecimal digit, bits 7..4 (R11). -/
def fieldH3 (w : Word) : BitVec 4 := w.extractLsb' 4 4
/-- D, bits 7..0 (R101). -/
def fieldD (w : Word) : BitVec 8 := w.extractLsb' 0 8
/-- K, bits 3..0 (R101). -/
def fieldK (w : Word) : BitVec 4 := w.extractLsb' 0 4
/-- AR, bits 6..4 (R101). -/
def fieldAr (w : Word) : Reg := regOf (w.extractLsb' 4 3)
/-- XR, bits 2..0 (R101). -/
def fieldXr (w : Word) : Reg := regOf (w.extractLsb' 0 3)

/-- I, E with the second word, and XR (R101, R146). -/
def memOpOf (w w2 : Word) : MemOp :=
  { ind := w.getLsbD 7, ext := if w.getLsbD 3 then some w2 else none, xr := fieldXr w }

/-- The fields of a class C second word (R120). -/
def decOperandsOf (w2 : Word) : DecOperands :=
  { l1 := w2.extractLsb' 12 4, l2 := w2.extractLsb' 8 4, bit7 := w2.getLsbD 7, x1 := regOf (w2.extractLsb' 4 3),
    bit3 := w2.getLsbD 3, x2 := regOf (w2.extractLsb' 0 3) }

/-! ## The operation codes of the families -/

/-- R110. -/
def grOpOf (b : BitVec 3) : GrOp :=
  match b.toNat with
  | 0 => .mov | 1 => .sub | 2 => .add | 3 => .and | 4 => .ior | 5 => .eor | 6 => .cmp | _ => .tst

/-- R110. -/
def GrOp.bits : GrOp → BitVec 3
  | .mov => 0 | .sub => 1 | .add => 2 | .and => 3 | .ior => 4 | .eor => 5 | .cmp => 6 | .tst => 7

/-- R102. -/
def GrClass.bits : GrClass → BitVec 4
  | .storeDec => 1 | .storeInc => 2 | .store => 3 | .loadDec => 5 | .loadInc => 6 | .load => 7

/-- R242. -/
def shiftOpOf (b : BitVec 3) : ShiftOp :=
  match b.toNat with
  | 0 => .lao | 1 => .lll | 2 => .llo | 3 => .llc | 4 => .rao | 5 => .rll | 6 => .rlo | _ => .rlc

/-- R242. -/
def ShiftOp.bits : ShiftOp → BitVec 3
  | .lao => 0 | .lll => 1 | .llo => 2 | .llc => 3 | .rao => 4 | .rll => 5 | .rlo => 6 | .rlc => 7

/-- The operation of an even OP in the normalize format (R390). -/
def normOpOf (b : BitVec 3) : NormOp :=
  match b.toNat with
  | 0 => .la | 2 => .ll | 4 => .ra | _ => .rl

/-- R390. -/
def NormOp.bits : NormOp → BitVec 3
  | .la => 0 | .ll => 2 | .ra => 4 | .rl => 6

/-- R103, R114: OP of a control instruction with a D field. -/
def DirectOp.bits : DirectOp → BitVec 3
  | .stsm => 1 | .regm => 3 | .retn => 4 | .msts => 5 | .mreg => 7

/-- R360. -/
def BitOp.bits : BitOp → BitVec 3
  | .rbit => 1 | .sbit => 2 | .cbit => 3 | .ibit => 4 | .tsbt => 5 | .tbit => 6

/-- R375: the I and J bits of a move. -/
def MoveOp.bitI : MoveOp → Bool
  | .negt | .cplm => false
  | .movp | .movn => true

/-- R375: the I and J bits of a move. -/
def MoveOp.bitJ : MoveOp → Bool
  | .negt | .movp => false
  | .cplm | .movn => true

/-- R118. -/
def FixedOp.bits : FixedOp → BitVec 3
  | .dsta => 0 | .dsub => 1 | .dadd => 2 | .mult => 3 | .divd => 4 | .dlod => 5

/-- R120. -/
def DecimalOp.bits : DecimalOp → BitVec 4
  | .zadd => 2 | .addd => 3 | .subd => 4 | .cmpd => 5 | .sftr => 8 | .movr => 9 | .sftl => 10 | .movl => 11 | .comp => 12

/-! ## The formats (R103): the words of an instruction from its fields -/

/-- The words of one instruction: a first word and, in the two-word formats, a second (R100). -/
structure Code where
  first  : Word
  second : Option Word
  deriving DecidableEq, Repr

/-- The layout C, bit 11, bits 10..8, bit 7, bits 6..4, bit 3, bits 2..0 that the formats share (R103). -/
def fieldsWord (c : BitVec 4) (b : Bool) (op : BitVec 3) (i : Bool) (ar : BitVec 3) (e : Bool) (xr : BitVec 3) : Word :=
  c ++ BitVec.ofBool b ++ op ++ BitVec.ofBool i ++ ar ++ BitVec.ofBool e ++ xr

/-- A first word that ends in I, AR, E, XR, with the second word of E = 1 (formats GR, JMP, FCL, FIX). -/
def memCode (c : BitVec 4) (b : Bool) (op : BitVec 3) (ar : Reg) (m : MemOp) : Code :=
  { first := fieldsWord c b op m.ind ar.bits m.ext.isSome m.xr.bits, second := m.ext }

/-- A first word that ends in AR and a four-bit K, with bit 7 = 1 (formats DA-K, SH-K, BIT-K). -/
def constCode (c : BitVec 4) (b : Bool) (op : BitVec 3) (ar : Reg) (k : BitVec 4) : Code :=
  { first := c ++ BitVec.ofBool b ++ op ++ BitVec.ofBool true ++ ar.bits ++ k, second := none }

/-- C, T and the low byte (formats BR, CT-0, CT-D). -/
def byteWord (c t : BitVec 4) (d : BitVec 8) : Word := c ++ t ++ d

/-- Format GR. -/
def grCode (cls : GrClass) (wd : Width) (op : GrOp) (ar : Reg) (m : MemOp) : Code :=
  memCode cls.bits (wd == .byte) op.bits ar m

/-- Format JMP: JUMP has AR = 0 (R186, R187). -/
def jumpCode (ar : Reg) (m : MemOp) : Code := memCode 4 false 0 ar m

/-- Format DA-R with E = 0 (R190). -/
def accRegCode (op : GrOp) (ar xr : Reg) : Code :=
  { first := fieldsWord 4 true op.bits false ar.bits false xr.bits, second := none }

/-- Format DA-R with E = 1 (R191). -/
def accLitCode (op : GrOp) (ar xr : Reg) (lit : Word) : Code :=
  { first := fieldsWord 4 true op.bits false ar.bits true xr.bits, second := some lit }

/-- Format DA-K (R192). -/
def accImmCode (op : GrOp) (ar : Reg) (k : BitVec 4) : Code := constCode 4 true op.bits ar k

/-- Format BR: class 9 (true) or 8 (false), T and D (R112). -/
def branchCode (sense : Bool) (t : BitVec 4) (d : BitVec 8) : Code :=
  { first := byteWord (if sense then 9 else 8) t d, second := none }

/-- Format SH-X, single (`double` = false) or double length (R240, R405). -/
def shiftXCode (double : Bool) (op : ShiftOp) (ar xr : Reg) : Code :=
  { first := fieldsWord 10 double op.bits false ar.bits false xr.bits, second := none }

/-- Format SH-K (R240). -/
def shiftKCode (op : ShiftOp) (ar : Reg) (k : BitVec 4) : Code := constCode 10 false op.bits ar k

/-- Format DSH-K: the pair in bits 6..5, K in bits 4..0 (R405). -/
def doubleShiftKCode (op : ShiftOp) (pair : BitVec 2) (k : BitVec 5) : Code :=
  { first := (10 : BitVec 4) ++ BitVec.ofBool true ++ op.bits ++ BitVec.ofBool true ++ pair ++ k, second := none }

/-- Format NRM (R390). -/
def normalizeCode (double : Bool) (op : NormOp) (ar xr : Reg) : Code :=
  { first := fieldsWord 10 double op.bits false ar.bits true xr.bits, second := none }

/-- Format CT-0: H2 and a low byte that HALT ignores (R114, R123). -/
def controlCode (h2 : BitVec 4) (low : BitVec 8) : Code := { first := byteWord 0 h2 low, second := none }

/-- Format CT-F: RSTS (`set` = false) or SETS, and F (R272, R273). -/
def statusCode (set : Bool) (f : BitVec 7) : Code :=
  { first := (2 : BitVec 8) ++ BitVec.ofBool set ++ f, second := none }

/-- Format CT-K: H2 = 8, H3 and K (R114). -/
def interruptCode (h3 k : BitVec 4) : Code := { first := (8 : BitVec 8) ++ h3 ++ k, second := none }

/-- Format CT-D: bit 11 is the address mode, then OP and D (R274). -/
def directCode (op : DirectOp) (mode : AddrMode) (d : BitVec 8) : Code :=
  { first := (0 : BitVec 4) ++ BitVec.ofBool (mode == .relative) ++ op.bits ++ d, second := none }

/-- Format FCL (R117). -/
def fetchClearCode (wd : Width) (ar : Reg) (m : MemOp) : Code := memCode 0 (wd == .byte) 6 ar m

/-- Format KEY: SKEY without, JKEY with a jump address word (R115). -/
def keyCode (k : BitVec 2) (target : Option Word) : Code :=
  { first := (0x081 : BitVec 12) ++ BitVec.ofBool target.isSome ++ BitVec.ofBool false ++ k, second := target }

/-- Format CPU: bits 7..4 = 2 (LCPU) or 3 (LKEY), bit 3 = 0, XR (R116). -/
def processorCode (h3 : BitVec 4) (xr : Reg) : Code :=
  { first := (8 : BitVec 8) ++ h3 ++ BitVec.ofBool false ++ xr.bits, second := none }

/-- Format BIT-X (R360). -/
def bitXCode (op : BitOp) (ar xr : Reg) : Code :=
  { first := fieldsWord 4 false op.bits false ar.bits false xr.bits, second := none }

/-- Format BIT-K (R119, R360). -/
def bitKCode (op : BitOp) (ar : Reg) (k : BitVec 4) : Code := constCode 4 false op.bits ar k

/-- Format BIT-M (R360). -/
def bitMCode (op : BitOp) (ar xr : Reg) (mask : Word) : Code :=
  { first := fieldsWord 4 false op.bits false ar.bits true xr.bits, second := some mask }

/-- Format MOV2 (R375). -/
def moveCode (op : MoveOp) (ar xr : Reg) : Code :=
  { first := fieldsWord 4 false 7 op.bitI ar.bits op.bitJ xr.bits, second := none }

/-- Format FIX (R430). -/
def fixedCode (op : FixedOp) (ar : Reg) (m : MemOp) : Code := memCode 11 false op.bits ar m

/-- The second word of formats DEC and DECS (R120). -/
def decOperandsWord (o : DecOperands) : Word :=
  o.l1 ++ o.l2 ++ BitVec.ofBool o.bit7 ++ o.x1.bits ++ BitVec.ofBool o.bit3 ++ o.x2.bits

/-- Formats DEC and DECS; bits 2..0 of a DECS first word are unused and kept in `reg2` (R120, R322). -/
def decimalCode (op : DecimalOp) (reg1 reg2 : Reg) (o : DecOperands) : Code :=
  { first := (12 : BitVec 4) ++ op.bits ++ BitVec.ofBool false ++ reg1.bits ++ BitVec.ofBool false ++ reg2.bits,
    second := some (decOperandsWord o) }

/-! ## The families' rows by their operation codes -/

/-- The 96 rows of format GR (R110, R200). -/
def grInstr : GrClass → Width → GrOp → Reg → MemOp → Instr
  | .load, .word, .mov, ar, m => .movwLoad ar m
  | .load, .word, .sub, ar, m => .subwLoad ar m
  | .load, .word, .add, ar, m => .addwLoad ar m
  | .load, .word, .and, ar, m => .andwLoad ar m
  | .load, .word, .ior, ar, m => .iorwLoad ar m
  | .load, .word, .eor, ar, m => .eorwLoad ar m
  | .load, .word, .cmp, ar, m => .cmpwLoad ar m
  | .load, .word, .tst, ar, m => .tstwLoad ar m
  | .load, .byte, .mov, ar, m => .movbLoad ar m
  | .load, .byte, .sub, ar, m => .subbLoad ar m
  | .load, .byte, .add, ar, m => .addbLoad ar m
  | .load, .byte, .and, ar, m => .andbLoad ar m
  | .load, .byte, .ior, ar, m => .iorbLoad ar m
  | .load, .byte, .eor, ar, m => .eorbLoad ar m
  | .load, .byte, .cmp, ar, m => .cmpbLoad ar m
  | .load, .byte, .tst, ar, m => .tstbLoad ar m
  | .loadInc, .word, .mov, ar, m => .movwLoadInc ar m
  | .loadInc, .word, .sub, ar, m => .subwLoadInc ar m
  | .loadInc, .word, .add, ar, m => .addwLoadInc ar m
  | .loadInc, .word, .and, ar, m => .andwLoadInc ar m
  | .loadInc, .word, .ior, ar, m => .iorwLoadInc ar m
  | .loadInc, .word, .eor, ar, m => .eorwLoadInc ar m
  | .loadInc, .word, .cmp, ar, m => .cmpwLoadInc ar m
  | .loadInc, .word, .tst, ar, m => .tstwLoadInc ar m
  | .loadInc, .byte, .mov, ar, m => .movbLoadInc ar m
  | .loadInc, .byte, .sub, ar, m => .subbLoadInc ar m
  | .loadInc, .byte, .add, ar, m => .addbLoadInc ar m
  | .loadInc, .byte, .and, ar, m => .andbLoadInc ar m
  | .loadInc, .byte, .ior, ar, m => .iorbLoadInc ar m
  | .loadInc, .byte, .eor, ar, m => .eorbLoadInc ar m
  | .loadInc, .byte, .cmp, ar, m => .cmpbLoadInc ar m
  | .loadInc, .byte, .tst, ar, m => .tstbLoadInc ar m
  | .loadDec, .word, .mov, ar, m => .movwLoadDec ar m
  | .loadDec, .word, .sub, ar, m => .subwLoadDec ar m
  | .loadDec, .word, .add, ar, m => .addwLoadDec ar m
  | .loadDec, .word, .and, ar, m => .andwLoadDec ar m
  | .loadDec, .word, .ior, ar, m => .iorwLoadDec ar m
  | .loadDec, .word, .eor, ar, m => .eorwLoadDec ar m
  | .loadDec, .word, .cmp, ar, m => .cmpwLoadDec ar m
  | .loadDec, .word, .tst, ar, m => .tstwLoadDec ar m
  | .loadDec, .byte, .mov, ar, m => .movbLoadDec ar m
  | .loadDec, .byte, .sub, ar, m => .subbLoadDec ar m
  | .loadDec, .byte, .add, ar, m => .addbLoadDec ar m
  | .loadDec, .byte, .and, ar, m => .andbLoadDec ar m
  | .loadDec, .byte, .ior, ar, m => .iorbLoadDec ar m
  | .loadDec, .byte, .eor, ar, m => .eorbLoadDec ar m
  | .loadDec, .byte, .cmp, ar, m => .cmpbLoadDec ar m
  | .loadDec, .byte, .tst, ar, m => .tstbLoadDec ar m
  | .store, .word, .mov, ar, m => .movwStore ar m
  | .store, .word, .sub, ar, m => .subwStore ar m
  | .store, .word, .add, ar, m => .addwStore ar m
  | .store, .word, .and, ar, m => .andwStore ar m
  | .store, .word, .ior, ar, m => .iorwStore ar m
  | .store, .word, .eor, ar, m => .eorwStore ar m
  | .store, .word, .cmp, ar, m => .cmpwStore ar m
  | .store, .word, .tst, ar, m => .tstwStore ar m
  | .store, .byte, .mov, ar, m => .movbStore ar m
  | .store, .byte, .sub, ar, m => .subbStore ar m
  | .store, .byte, .add, ar, m => .addbStore ar m
  | .store, .byte, .and, ar, m => .andbStore ar m
  | .store, .byte, .ior, ar, m => .iorbStore ar m
  | .store, .byte, .eor, ar, m => .eorbStore ar m
  | .store, .byte, .cmp, ar, m => .cmpbStore ar m
  | .store, .byte, .tst, ar, m => .tstbStore ar m
  | .storeInc, .word, .mov, ar, m => .movwStoreInc ar m
  | .storeInc, .word, .sub, ar, m => .subwStoreInc ar m
  | .storeInc, .word, .add, ar, m => .addwStoreInc ar m
  | .storeInc, .word, .and, ar, m => .andwStoreInc ar m
  | .storeInc, .word, .ior, ar, m => .iorwStoreInc ar m
  | .storeInc, .word, .eor, ar, m => .eorwStoreInc ar m
  | .storeInc, .word, .cmp, ar, m => .cmpwStoreInc ar m
  | .storeInc, .word, .tst, ar, m => .tstwStoreInc ar m
  | .storeInc, .byte, .mov, ar, m => .movbStoreInc ar m
  | .storeInc, .byte, .sub, ar, m => .subbStoreInc ar m
  | .storeInc, .byte, .add, ar, m => .addbStoreInc ar m
  | .storeInc, .byte, .and, ar, m => .andbStoreInc ar m
  | .storeInc, .byte, .ior, ar, m => .iorbStoreInc ar m
  | .storeInc, .byte, .eor, ar, m => .eorbStoreInc ar m
  | .storeInc, .byte, .cmp, ar, m => .cmpbStoreInc ar m
  | .storeInc, .byte, .tst, ar, m => .tstbStoreInc ar m
  | .storeDec, .word, .mov, ar, m => .movwStoreDec ar m
  | .storeDec, .word, .sub, ar, m => .subwStoreDec ar m
  | .storeDec, .word, .add, ar, m => .addwStoreDec ar m
  | .storeDec, .word, .and, ar, m => .andwStoreDec ar m
  | .storeDec, .word, .ior, ar, m => .iorwStoreDec ar m
  | .storeDec, .word, .eor, ar, m => .eorwStoreDec ar m
  | .storeDec, .word, .cmp, ar, m => .cmpwStoreDec ar m
  | .storeDec, .word, .tst, ar, m => .tstwStoreDec ar m
  | .storeDec, .byte, .mov, ar, m => .movbStoreDec ar m
  | .storeDec, .byte, .sub, ar, m => .subbStoreDec ar m
  | .storeDec, .byte, .add, ar, m => .addbStoreDec ar m
  | .storeDec, .byte, .and, ar, m => .andbStoreDec ar m
  | .storeDec, .byte, .ior, ar, m => .iorbStoreDec ar m
  | .storeDec, .byte, .eor, ar, m => .eorbStoreDec ar m
  | .storeDec, .byte, .cmp, ar, m => .cmpbStoreDec ar m
  | .storeDec, .byte, .tst, ar, m => .tstbStoreDec ar m

/-- The eight register forms of class 4 (R190). -/
def accRegInstr : GrOp → Reg → Reg → Instr
  | .mov, ar, xr => .movwReg ar xr
  | .sub, ar, xr => .subwReg ar xr
  | .add, ar, xr => .addwReg ar xr
  | .and, ar, xr => .andwReg ar xr
  | .ior, ar, xr => .iorwReg ar xr
  | .eor, ar, xr => .eorwReg ar xr
  | .cmp, ar, xr => .cmpwReg ar xr
  | .tst, ar, xr => .tstwReg ar xr

/-- The eight literal forms of class 4 (R191). -/
def accLitInstr : GrOp → Reg → Reg → Word → Instr
  | .mov, ar, xr, lit => .movwLit ar xr lit
  | .sub, ar, xr, lit => .subwLit ar xr lit
  | .add, ar, xr, lit => .addwLit ar xr lit
  | .and, ar, xr, lit => .andwLit ar xr lit
  | .ior, ar, xr, lit => .iorwLit ar xr lit
  | .eor, ar, xr, lit => .eorwLit ar xr lit
  | .cmp, ar, xr, lit => .cmpwLit ar xr lit
  | .tst, ar, xr, lit => .tstwLit ar xr lit

/-- The eight immediate forms of class 4 (R192). -/
def accImmInstr : GrOp → Reg → BitVec 4 → Instr
  | .mov, ar, k => .movwImm ar k
  | .sub, ar, k => .subwImm ar k
  | .add, ar, k => .addwImm ar k
  | .and, ar, k => .andwImm ar k
  | .ior, ar, k => .iorwImm ar k
  | .eor, ar, k => .eorwImm ar k
  | .cmp, ar, k => .cmpwImm ar k
  | .tst, ar, k => .tstwImm ar k

/-- The 24 conditional branches: sense and condition (R220, R223). -/
def branchInstr : Bool → Cond → BitVec 8 → Instr
  | true, .eq, d => .beqt d
  | false, .eq, d => .beqf d
  | true, .gt, d => .bgtt d
  | false, .gt, d => .bgtf d
  | true, .ov, d => .bovt d
  | false, .ov, d => .bovf d
  | true, .cy, d => .bcyt d
  | false, .cy, d => .bcyf d
  | true, .f1, d => .bf1t d
  | false, .f1, d => .bf1f d
  | true, .f2, d => .bf2t d
  | false, .f2, d => .bf2f d
  | true, .f3, d => .bf3t d
  | false, .f3, d => .bf3f d
  | true, .lp, d => .blpt d
  | false, .lp, d => .blpf d
  | true, .od, d => .bodt d
  | false, .od, d => .bodf d
  | true, .ze, d => .bzet d
  | false, .ze, d => .bzef d
  | true, .ng, d => .bngt d
  | false, .ng, d => .bngf d
  | true, .lt, d => .bltt d
  | false, .lt, d => .bltf d

/-- A row of class 9 (`sense` = true) or class 8 by T (R112, R224). -/
def branchRow (sense : Bool) (w : Word) : Instr :=
  match (fieldT w).toNat with
  | 0 => if sense then .brun (fieldD w) else .nopr (fieldD w)
  | 1 => branchInstr sense .eq (fieldD w) | 2 => branchInstr sense .gt (fieldD w) | 3 => branchInstr sense .ov (fieldD w)
  | 4 => branchInstr sense .cy (fieldD w) | 5 => branchInstr sense .f1 (fieldD w) | 6 => branchInstr sense .f2 (fieldD w)
  | 7 => branchInstr sense .f3 (fieldD w) | 8 => branchInstr sense .lp (fieldD w) | 9 => branchInstr sense .od (fieldD w)
  | 10 => branchInstr sense .ze (fieldD w) | 11 => branchInstr sense .ng (fieldD w)
  | 12 => branchInstr sense .lt (fieldD w)
  | _ => .trap w

/-- T of a condition (R220). -/
def Cond.bits : Cond → BitVec 4
  | .eq => 1 | .gt => 2 | .ov => 3 | .cy => 4 | .f1 => 5 | .f2 => 6 | .f3 => 7 | .lp => 8 | .od => 9 | .ze => 10 | .ng => 11
  | .lt => 12

/-- The shifts with the count in a register: length and operation (R113). -/
def shiftXInstr : Bool → ShiftOp → Reg → Reg → Instr
  | false, .lao, ar, xr => .slaoX ar xr
  | false, .lll, ar, xr => .slllX ar xr
  | false, .llo, ar, xr => .slloX ar xr
  | false, .llc, ar, xr => .sllcX ar xr
  | false, .rao, ar, xr => .sraoX ar xr
  | false, .rll, ar, xr => .srllX ar xr
  | false, .rlo, ar, xr => .srloX ar xr
  | false, .rlc, ar, xr => .srlcX ar xr
  | true, .lao, ar, xr => .dlaoX ar xr
  | true, .lll, ar, xr => .dlllX ar xr
  | true, .llo, ar, xr => .dlloX ar xr
  | true, .llc, ar, xr => .dllcX ar xr
  | true, .rao, ar, xr => .draoX ar xr
  | true, .rll, ar, xr => .drllX ar xr
  | true, .rlo, ar, xr => .drloX ar xr
  | true, .rlc, ar, xr => .drlcX ar xr

/-- The single shifts with count K (R113). -/
def shiftKInstr : ShiftOp → Reg → BitVec 4 → Instr
  | .lao, ar, k => .slaoK ar k
  | .lll, ar, k => .slllK ar k
  | .llo, ar, k => .slloK ar k
  | .llc, ar, k => .sllcK ar k
  | .rao, ar, k => .sraoK ar k
  | .rll, ar, k => .srllK ar k
  | .rlo, ar, k => .srloK ar k
  | .rlc, ar, k => .srlcK ar k

/-- The double shifts with count K (R405). -/
def doubleShiftKInstr : ShiftOp → BitVec 2 → BitVec 5 → Instr
  | .lao, pair, k => .dlaoK pair k
  | .lll, pair, k => .dlllK pair k
  | .llo, pair, k => .dlloK pair k
  | .llc, pair, k => .dllcK pair k
  | .rao, pair, k => .draoK pair k
  | .rll, pair, k => .drllK pair k
  | .rlo, pair, k => .drloK pair k
  | .rlc, pair, k => .drlcK pair k

/-- The normalizes: length and operation (R390). -/
def normalizeInstr : Bool → NormOp → Reg → Reg → Instr
  | false, .la, ar, xr => .slan ar xr
  | false, .ll, ar, xr => .slln ar xr
  | false, .ra, ar, xr => .sran ar xr
  | false, .rl, ar, xr => .srln ar xr
  | true, .la, ar, xr => .dlan ar xr
  | true, .ll, ar, xr => .dlln ar xr
  | true, .ra, ar, xr => .dran ar xr
  | true, .rl, ar, xr => .drln ar xr

/-- The control instructions with a D field (R114). -/
def directInstr : DirectOp → AddrMode → BitVec 8 → Instr
  | .stsm, md, d => .stsm md d
  | .regm, md, d => .regm md d
  | .retn, md, d => .retn md d
  | .msts, md, d => .msts md d
  | .mreg, md, d => .mreg md d

/-- Bit manipulation, bit number in a register (R360). -/
def bitXInstr : BitOp → Reg → Reg → Instr
  | .rbit, ar, xr => .rbitX ar xr
  | .sbit, ar, xr => .sbitX ar xr
  | .cbit, ar, xr => .cbitX ar xr
  | .ibit, ar, xr => .ibitX ar xr
  | .tsbt, ar, xr => .tsbtX ar xr
  | .tbit, ar, xr => .tbitX ar xr

/-- Bit manipulation, bit number K (R360). -/
def bitKInstr : BitOp → Reg → BitVec 4 → Instr
  | .rbit, ar, k => .rbitK ar k
  | .sbit, ar, k => .sbitK ar k
  | .cbit, ar, k => .cbitK ar k
  | .ibit, ar, k => .ibitK ar k
  | .tsbt, ar, k => .tsbtK ar k
  | .tbit, ar, k => .tbitK ar k

/-- Bit manipulation, mask word (R360). -/
def bitMInstr : BitOp → Reg → Reg → Word → Instr
  | .rbit, ar, xr, mask => .rbitM ar xr mask
  | .sbit, ar, xr, mask => .sbitM ar xr mask
  | .cbit, ar, xr, mask => .cbitM ar xr mask
  | .ibit, ar, xr, mask => .ibitM ar xr mask
  | .tsbt, ar, xr, mask => .tsbtM ar xr mask
  | .tbit, ar, xr, mask => .tbitM ar xr mask

/-- The register moves (R375). -/
def moveInstr : MoveOp → Reg → Reg → Instr
  | .negt, ar, xr => .negt ar xr
  | .cplm, ar, xr => .cplm ar xr
  | .movp, ar, xr => .movp ar xr
  | .movn, ar, xr => .movn ar xr

/-- The class B rows; OP = 3 is MULT for an odd and MLTA for an even AR (R118, R430). -/
def fixedInstr : FixedOp → Reg → MemOp → Instr
  | .dsta, ar, m => .dsta ar m
  | .dsub, ar, m => .dsub ar m
  | .dadd, ar, m => .dadd ar m
  | .divd, ar, m => .divd ar m
  | .dlod, ar, m => .dlod ar m
  | .mult, ar, m => if ar.isOdd then .mult ar m else .mlta ar m

/-- The class C rows (R120). -/
def decimalInstr : DecimalOp → Reg → Reg → DecOperands → Instr
  | .zadd, reg1, reg2, o => .zadd reg1 reg2 o
  | .addd, reg1, reg2, o => .addd reg1 reg2 o
  | .subd, reg1, reg2, o => .subd reg1 reg2 o
  | .cmpd, reg1, reg2, o => .cmpd reg1 reg2 o
  | .sftr, reg1, reg2, o => .sftr reg1 reg2 o
  | .movr, reg1, reg2, o => .movr reg1 reg2 o
  | .sftl, reg1, reg2, o => .sftl reg1 reg2 o
  | .movl, reg1, reg2, o => .movl reg1 reg2 o
  | .comp, reg1, reg2, o => .comp reg1 reg2 o

/-! ## Decoding (R104, R110 to R123) -/

/-- Class 0, H2 = 8: interrupt control, key and processor-number instructions by H3 (R114 to R116). -/
def decodeInterrupt (mdl : Model) (w w2 : Word) : Instr :=
  match (fieldH3 w).toNat with
  | 0 => .enbl (fieldK w)
  | 1 =>
    if w.getLsbD 2 then .trap w
    else if w.getLsbD 3 then (if mdl.isScientific then .jkey (w.extractLsb' 0 2) w2 else .trap w)
    else if mdl.hasKey then .skey (w.extractLsb' 0 2) else .trap w
  | 2 => if mdl.isScientific && !w.getLsbD 3 then .lcpu (fieldXr w) else .trap w
  | 3 => if mdl.isScientific && !w.getLsbD 3 then .lkey (fieldXr w) else .trap w
  | 4 => if fieldK w = 0 then .waitE else .enbw (fieldK w)
  | 8 => .dsbl (fieldK w)
  | 12 => if fieldK w = 0 then .waitD else .dsbw (fieldK w)
  | _ => .trap w

/-- Class 0, by H2 (R114, R117). -/
def decodeControl (mdl : Model) (w w2 : Word) : Instr :=
  match (fieldT w).toNat with
  | 0 => .halt
  | 1 => directInstr .stsm .absolute (fieldD w)
  | 2 => if w.getLsbD 7 then .sets (w.extractLsb' 0 7) else .rsts (w.extractLsb' 0 7)
  | 3 => directInstr .regm .absolute (fieldD w)
  | 4 => directInstr .retn .absolute (fieldD w)
  | 5 => directInstr .msts .absolute (fieldD w)
  | 6 => if mdl.hasKey then .fclw (fieldAr w) (memOpOf w w2) else .trap w
  | 7 => directInstr .mreg .absolute (fieldD w)
  | 8 => decodeInterrupt mdl w w2
  | 9 => directInstr .stsm .relative (fieldD w)
  | 11 => directInstr .regm .relative (fieldD w)
  | 12 => directInstr .retn .relative (fieldD w)
  | 13 => directInstr .msts .relative (fieldD w)
  | 14 => if mdl.hasKey then .fclb (fieldAr w) (memOpOf w w2) else .trap w
  | 15 => directInstr .mreg .relative (fieldD w)
  | _ => .trap w

/-- A bit manipulation row by its format: bit 7 selects K, bit 3 the mask word (R119, R360). -/
def decodeBit (op : BitOp) (w w2 : Word) : Instr :=
  if w.getLsbD 7 then bitKInstr op (fieldAr w) (fieldK w)
  else if w.getLsbD 3 then bitMInstr op (fieldAr w) (fieldXr w) w2
  else bitXInstr op (fieldAr w) (fieldXr w)

/-- A move row by its I and J bits (R375). -/
def decodeMove (w : Word) : Instr :=
  moveInstr (if w.getLsbD 7 then (if w.getLsbD 3 then .movn else .movp) else (if w.getLsbD 3 then .cplm else .negt))
    (fieldAr w) (fieldXr w)

/-- The bit operation of an OP field, 1 to 6 (R119). -/
def bitOpOf (b : BitVec 3) : Option BitOp :=
  match b.toNat with
  | 1 => some .rbit
  | 2 => some .sbit
  | 3 => some .cbit
  | 4 => some .ibit
  | 5 => some .tsbt
  | 6 => some .tbit
  | _ => none

/-- Class 4 with bit 11 = 0 (R111). -/
def decodeClass4Low (mdl : Model) (w w2 : Word) : Instr :=
  if fieldOp w = 0 then (if fieldAr w = .r0 then .jump (memOpOf w w2) else .jsbr (fieldAr w) (memOpOf w w2))
  else if !mdl.isScientific then .trap w
  else match bitOpOf (fieldOp w) with
    | some op => decodeBit op w w2
    | none => decodeMove w

/-- Class 4 (R111). -/
def decodeClass4 (mdl : Model) (w w2 : Word) : Instr :=
  if w.getLsbD 11 then
    if w.getLsbD 7 then accImmInstr (grOpOf (fieldOp w)) (fieldAr w) (fieldK w)
    else if w.getLsbD 3 then accLitInstr (grOpOf (fieldOp w)) (fieldAr w) (fieldXr w) w2
    else accRegInstr (grOpOf (fieldOp w)) (fieldAr w) (fieldXr w)
  else decodeClass4Low mdl w w2

/-- Class A (R113). -/
def decodeShift (mdl : Model) (w : Word) : Instr :=
  if w.getLsbD 11 && !mdl.isScientific then .trap w
  else if w.getLsbD 7 then
    if w.getLsbD 11 then doubleShiftKInstr (shiftOpOf (fieldOp w)) (w.extractLsb' 5 2) (w.extractLsb' 0 5)
    else shiftKInstr (shiftOpOf (fieldOp w)) (fieldAr w) (fieldK w)
  else if w.getLsbD 3 then
    if mdl.isScientific && !w.getLsbD 8 then
      normalizeInstr (w.getLsbD 11) (normOpOf (fieldOp w)) (fieldAr w) (fieldXr w)
    else .trap w
  else shiftXInstr (w.getLsbD 11) (shiftOpOf (fieldOp w)) (fieldAr w) (fieldXr w)

/-- The operation of a class B OP field (R118). -/
def fixedOpOf (b : BitVec 3) : Option FixedOp :=
  match b.toNat with
  | 0 => some .dsta
  | 1 => some .dsub
  | 2 => some .dadd
  | 3 => some .mult
  | 4 => some .divd
  | 5 => some .dlod
  | _ => none

/-- Class B (R118, R121). -/
def decodeFixed (mdl : Model) (w w2 : Word) : Instr :=
  if !mdl.isScientific then .trap w
  else if w.getLsbD 11 then .trap w
  else match fixedOpOf (fieldOp w) with
    | some op => fixedInstr op (fieldAr w) (memOpOf w w2)
    | none => .trap w

/-- A class C row whose first word must show 0 in bits 7 and 3 (R120, R122). -/
def decodeDecimalRow (op : DecimalOp) (w w2 : Word) : Instr :=
  if w.getLsbD 7 || w.getLsbD 3 then .trap w
  else decimalInstr op (fieldAr w) (fieldXr w) (decOperandsOf w2)

/-- The operation of a class C OP field (R120). -/
def decimalOpOf (b : BitVec 4) : Option DecimalOp :=
  match b.toNat with
  | 2 => some .zadd
  | 3 => some .addd
  | 4 => some .subd
  | 5 => some .cmpd
  | 8 => some .sftr
  | 9 => some .movr
  | 10 => some .sftl
  | 11 => some .movl
  | 12 => some .comp
  | _ => none

/-- Class C (R120, R121). -/
def decodeDecimal (mdl : Model) (w w2 : Word) : Instr :=
  if !mdl.isDecimal then .trap w
  else match decimalOpOf (fieldT w) with
    | some op => decodeDecimalRow op w w2
    | none => .trap w

/-- Format GR (R110). -/
def decodeGr (cls : GrClass) (w w2 : Word) : Instr :=
  grInstr cls (if w.getLsbD 11 then .byte else .word) (grOpOf (fieldOp w)) (fieldAr w) (memOpOf w w2)

/-- The row that a model takes a first word `w` for, with `w2` the word after it (used by the two-word rows only). Every
word is some row's: what no other row takes is the default row's (R122). -/
def decode (mdl : Model) (w w2 : Word) : Instr :=
  match (fieldC w).toNat with
  | 0 => decodeControl mdl w w2
  | 1 => decodeGr .storeDec w w2
  | 2 => decodeGr .storeInc w w2
  | 3 => decodeGr .store w w2
  | 4 => decodeClass4 mdl w w2
  | 5 => decodeGr .loadDec w w2
  | 6 => decodeGr .loadInc w w2
  | 7 => decodeGr .load w w2
  | 8 => branchRow false w
  | 9 => branchRow true w
  | 10 => decodeShift mdl w
  | 11 => decodeFixed mdl w w2
  | 12 => decodeDecimal mdl w w2
  | _ => .trap w

/-- The rule of `30_encoding.md` R104: the instruction has a second word. An encoding that traps has no defined length and
is counted as one word here. -/
def hasSecondWord (mdl : Model) (w : Word) : Bool :=
  match (fieldC w).toNat with
  | 1 | 2 | 3 | 5 | 6 | 7 => w.getLsbD 3
  | 4 =>
    w.getLsbD 3 &&
      (if w.getLsbD 11 then !w.getLsbD 7
       else if fieldOp w = 0 then true
       else mdl.isScientific && fieldOp w != 7 && !w.getLsbD 7)
  | 0 =>
    w.getLsbD 3 &&
      (fieldOp w == 6 && mdl.hasKey || fieldT w == 8 && fieldH3 w == 1 && !w.getLsbD 2 && mdl.isScientific)
  | 11 => w.getLsbD 3 && mdl.isScientific && !w.getLsbD 11 && !(fieldOp w == 6 || fieldOp w == 7)
  | 12 =>
    mdl.isDecimal && !w.getLsbD 7 && !w.getLsbD 3 &&
      !(fieldT w == 0 || fieldT w == 1 || fieldT w == 6 || fieldT w == 7 || fieldT w == 13 || fieldT w == 14
        || fieldT w == 15)
  | _ => false

/-- The processor reads the second word before it acts: it has one, and the first word alone does not already trap
(class B with AR = 0 or 1 traps before any access, R431, R463). DESIGN CHOICE: a form that is refused (class B with an odd AR and
OP other than 3, class C with R1 = 0 or R2 = 0) is refused once it has its second word, so that an absent one aborts; the spec
gives no order (assumption log 34). -/
def readsSecondWord (mdl : Model) (w : Word) : Bool :=
  hasSecondWord mdl w && !(fieldC w == 11 && (fieldAr w == .r0 || fieldAr w == .r1))

/-- The number of words of an encoding as its class suggests it, whatever the model, for the NEXT of a trap (R474); `none`
where no format is defined: classes D, E, F, and the H2 and H3 of class 0 that no row names. -/
def suggestedWords (w : Word) : Option Nat :=
  let byE := some (if w.getLsbD 3 then 2 else 1)
  match (fieldC w).toNat with
  | 1 | 2 | 3 | 5 | 6 | 7 | 11 => byE
  | 4 =>
    if w.getLsbD 11 || fieldOp w != 0 && fieldOp w != 7 then (if w.getLsbD 7 then some 1 else byE)
    else if fieldOp w = 0 then byE else some 1
  | 0 =>
    if fieldOp w = 6 then byE
    else match (fieldT w).toNat with
      | 8 =>
        match (fieldH3 w).toNat with
        | 1 => byE
        | 0 | 2 | 3 | 4 | 8 | 12 => some 1
        | _ => none
      | 10 => none
      | _ => some 1
  | 8 | 9 | 10 => some 1
  | 12 => some 2
  | _ => none

/-! ## Encoding -/

/-- The words of an instruction, by the format of its row (R103). -/
def code : Instr → Code
  | .movwLoad ar m => grCode .load .word .mov ar m
  | .subwLoad ar m => grCode .load .word .sub ar m
  | .addwLoad ar m => grCode .load .word .add ar m
  | .andwLoad ar m => grCode .load .word .and ar m
  | .iorwLoad ar m => grCode .load .word .ior ar m
  | .eorwLoad ar m => grCode .load .word .eor ar m
  | .cmpwLoad ar m => grCode .load .word .cmp ar m
  | .tstwLoad ar m => grCode .load .word .tst ar m
  | .movbLoad ar m => grCode .load .byte .mov ar m
  | .subbLoad ar m => grCode .load .byte .sub ar m
  | .addbLoad ar m => grCode .load .byte .add ar m
  | .andbLoad ar m => grCode .load .byte .and ar m
  | .iorbLoad ar m => grCode .load .byte .ior ar m
  | .eorbLoad ar m => grCode .load .byte .eor ar m
  | .cmpbLoad ar m => grCode .load .byte .cmp ar m
  | .tstbLoad ar m => grCode .load .byte .tst ar m
  | .movwLoadInc ar m => grCode .loadInc .word .mov ar m
  | .subwLoadInc ar m => grCode .loadInc .word .sub ar m
  | .addwLoadInc ar m => grCode .loadInc .word .add ar m
  | .andwLoadInc ar m => grCode .loadInc .word .and ar m
  | .iorwLoadInc ar m => grCode .loadInc .word .ior ar m
  | .eorwLoadInc ar m => grCode .loadInc .word .eor ar m
  | .cmpwLoadInc ar m => grCode .loadInc .word .cmp ar m
  | .tstwLoadInc ar m => grCode .loadInc .word .tst ar m
  | .movbLoadInc ar m => grCode .loadInc .byte .mov ar m
  | .subbLoadInc ar m => grCode .loadInc .byte .sub ar m
  | .addbLoadInc ar m => grCode .loadInc .byte .add ar m
  | .andbLoadInc ar m => grCode .loadInc .byte .and ar m
  | .iorbLoadInc ar m => grCode .loadInc .byte .ior ar m
  | .eorbLoadInc ar m => grCode .loadInc .byte .eor ar m
  | .cmpbLoadInc ar m => grCode .loadInc .byte .cmp ar m
  | .tstbLoadInc ar m => grCode .loadInc .byte .tst ar m
  | .movwLoadDec ar m => grCode .loadDec .word .mov ar m
  | .subwLoadDec ar m => grCode .loadDec .word .sub ar m
  | .addwLoadDec ar m => grCode .loadDec .word .add ar m
  | .andwLoadDec ar m => grCode .loadDec .word .and ar m
  | .iorwLoadDec ar m => grCode .loadDec .word .ior ar m
  | .eorwLoadDec ar m => grCode .loadDec .word .eor ar m
  | .cmpwLoadDec ar m => grCode .loadDec .word .cmp ar m
  | .tstwLoadDec ar m => grCode .loadDec .word .tst ar m
  | .movbLoadDec ar m => grCode .loadDec .byte .mov ar m
  | .subbLoadDec ar m => grCode .loadDec .byte .sub ar m
  | .addbLoadDec ar m => grCode .loadDec .byte .add ar m
  | .andbLoadDec ar m => grCode .loadDec .byte .and ar m
  | .iorbLoadDec ar m => grCode .loadDec .byte .ior ar m
  | .eorbLoadDec ar m => grCode .loadDec .byte .eor ar m
  | .cmpbLoadDec ar m => grCode .loadDec .byte .cmp ar m
  | .tstbLoadDec ar m => grCode .loadDec .byte .tst ar m
  | .movwStore ar m => grCode .store .word .mov ar m
  | .subwStore ar m => grCode .store .word .sub ar m
  | .addwStore ar m => grCode .store .word .add ar m
  | .andwStore ar m => grCode .store .word .and ar m
  | .iorwStore ar m => grCode .store .word .ior ar m
  | .eorwStore ar m => grCode .store .word .eor ar m
  | .cmpwStore ar m => grCode .store .word .cmp ar m
  | .tstwStore ar m => grCode .store .word .tst ar m
  | .movbStore ar m => grCode .store .byte .mov ar m
  | .subbStore ar m => grCode .store .byte .sub ar m
  | .addbStore ar m => grCode .store .byte .add ar m
  | .andbStore ar m => grCode .store .byte .and ar m
  | .iorbStore ar m => grCode .store .byte .ior ar m
  | .eorbStore ar m => grCode .store .byte .eor ar m
  | .cmpbStore ar m => grCode .store .byte .cmp ar m
  | .tstbStore ar m => grCode .store .byte .tst ar m
  | .movwStoreInc ar m => grCode .storeInc .word .mov ar m
  | .subwStoreInc ar m => grCode .storeInc .word .sub ar m
  | .addwStoreInc ar m => grCode .storeInc .word .add ar m
  | .andwStoreInc ar m => grCode .storeInc .word .and ar m
  | .iorwStoreInc ar m => grCode .storeInc .word .ior ar m
  | .eorwStoreInc ar m => grCode .storeInc .word .eor ar m
  | .cmpwStoreInc ar m => grCode .storeInc .word .cmp ar m
  | .tstwStoreInc ar m => grCode .storeInc .word .tst ar m
  | .movbStoreInc ar m => grCode .storeInc .byte .mov ar m
  | .subbStoreInc ar m => grCode .storeInc .byte .sub ar m
  | .addbStoreInc ar m => grCode .storeInc .byte .add ar m
  | .andbStoreInc ar m => grCode .storeInc .byte .and ar m
  | .iorbStoreInc ar m => grCode .storeInc .byte .ior ar m
  | .eorbStoreInc ar m => grCode .storeInc .byte .eor ar m
  | .cmpbStoreInc ar m => grCode .storeInc .byte .cmp ar m
  | .tstbStoreInc ar m => grCode .storeInc .byte .tst ar m
  | .movwStoreDec ar m => grCode .storeDec .word .mov ar m
  | .subwStoreDec ar m => grCode .storeDec .word .sub ar m
  | .addwStoreDec ar m => grCode .storeDec .word .add ar m
  | .andwStoreDec ar m => grCode .storeDec .word .and ar m
  | .iorwStoreDec ar m => grCode .storeDec .word .ior ar m
  | .eorwStoreDec ar m => grCode .storeDec .word .eor ar m
  | .cmpwStoreDec ar m => grCode .storeDec .word .cmp ar m
  | .tstwStoreDec ar m => grCode .storeDec .word .tst ar m
  | .movbStoreDec ar m => grCode .storeDec .byte .mov ar m
  | .subbStoreDec ar m => grCode .storeDec .byte .sub ar m
  | .addbStoreDec ar m => grCode .storeDec .byte .add ar m
  | .andbStoreDec ar m => grCode .storeDec .byte .and ar m
  | .iorbStoreDec ar m => grCode .storeDec .byte .ior ar m
  | .eorbStoreDec ar m => grCode .storeDec .byte .eor ar m
  | .cmpbStoreDec ar m => grCode .storeDec .byte .cmp ar m
  | .tstbStoreDec ar m => grCode .storeDec .byte .tst ar m
  | .jump m => jumpCode .r0 m
  | .jsbr ar m => jumpCode ar m
  | .movwReg ar xr => accRegCode .mov ar xr
  | .subwReg ar xr => accRegCode .sub ar xr
  | .addwReg ar xr => accRegCode .add ar xr
  | .andwReg ar xr => accRegCode .and ar xr
  | .iorwReg ar xr => accRegCode .ior ar xr
  | .eorwReg ar xr => accRegCode .eor ar xr
  | .cmpwReg ar xr => accRegCode .cmp ar xr
  | .tstwReg ar xr => accRegCode .tst ar xr
  | .movwLit ar xr lit => accLitCode .mov ar xr lit
  | .subwLit ar xr lit => accLitCode .sub ar xr lit
  | .addwLit ar xr lit => accLitCode .add ar xr lit
  | .andwLit ar xr lit => accLitCode .and ar xr lit
  | .iorwLit ar xr lit => accLitCode .ior ar xr lit
  | .eorwLit ar xr lit => accLitCode .eor ar xr lit
  | .cmpwLit ar xr lit => accLitCode .cmp ar xr lit
  | .tstwLit ar xr lit => accLitCode .tst ar xr lit
  | .movwImm ar k => accImmCode .mov ar k
  | .subwImm ar k => accImmCode .sub ar k
  | .addwImm ar k => accImmCode .add ar k
  | .andwImm ar k => accImmCode .and ar k
  | .iorwImm ar k => accImmCode .ior ar k
  | .eorwImm ar k => accImmCode .eor ar k
  | .cmpwImm ar k => accImmCode .cmp ar k
  | .tstwImm ar k => accImmCode .tst ar k
  | .nopr d => branchCode false 0 d
  | .brun d => branchCode true 0 d
  | .beqt d => branchCode true 1 d
  | .beqf d => branchCode false 1 d
  | .bgtt d => branchCode true 2 d
  | .bgtf d => branchCode false 2 d
  | .bovt d => branchCode true 3 d
  | .bovf d => branchCode false 3 d
  | .bcyt d => branchCode true 4 d
  | .bcyf d => branchCode false 4 d
  | .bf1t d => branchCode true 5 d
  | .bf1f d => branchCode false 5 d
  | .bf2t d => branchCode true 6 d
  | .bf2f d => branchCode false 6 d
  | .bf3t d => branchCode true 7 d
  | .bf3f d => branchCode false 7 d
  | .blpt d => branchCode true 8 d
  | .blpf d => branchCode false 8 d
  | .bodt d => branchCode true 9 d
  | .bodf d => branchCode false 9 d
  | .bzet d => branchCode true 10 d
  | .bzef d => branchCode false 10 d
  | .bngt d => branchCode true 11 d
  | .bngf d => branchCode false 11 d
  | .bltt d => branchCode true 12 d
  | .bltf d => branchCode false 12 d
  | .slaoX ar xr => shiftXCode false .lao ar xr
  | .slaoK ar k => shiftKCode .lao ar k
  | .slllX ar xr => shiftXCode false .lll ar xr
  | .slllK ar k => shiftKCode .lll ar k
  | .slloX ar xr => shiftXCode false .llo ar xr
  | .slloK ar k => shiftKCode .llo ar k
  | .sllcX ar xr => shiftXCode false .llc ar xr
  | .sllcK ar k => shiftKCode .llc ar k
  | .sraoX ar xr => shiftXCode false .rao ar xr
  | .sraoK ar k => shiftKCode .rao ar k
  | .srllX ar xr => shiftXCode false .rll ar xr
  | .srllK ar k => shiftKCode .rll ar k
  | .srloX ar xr => shiftXCode false .rlo ar xr
  | .srloK ar k => shiftKCode .rlo ar k
  | .srlcX ar xr => shiftXCode false .rlc ar xr
  | .srlcK ar k => shiftKCode .rlc ar k
  | .slan ar xr => normalizeCode false .la ar xr
  | .slln ar xr => normalizeCode false .ll ar xr
  | .sran ar xr => normalizeCode false .ra ar xr
  | .srln ar xr => normalizeCode false .rl ar xr
  | .dlan ar xr => normalizeCode true .la ar xr
  | .dlln ar xr => normalizeCode true .ll ar xr
  | .dran ar xr => normalizeCode true .ra ar xr
  | .drln ar xr => normalizeCode true .rl ar xr
  | .dlaoX ar xr => shiftXCode true .lao ar xr
  | .dlaoK pair k => doubleShiftKCode .lao pair k
  | .dlllX ar xr => shiftXCode true .lll ar xr
  | .dlllK pair k => doubleShiftKCode .lll pair k
  | .dlloX ar xr => shiftXCode true .llo ar xr
  | .dlloK pair k => doubleShiftKCode .llo pair k
  | .dllcX ar xr => shiftXCode true .llc ar xr
  | .dllcK pair k => doubleShiftKCode .llc pair k
  | .draoX ar xr => shiftXCode true .rao ar xr
  | .draoK pair k => doubleShiftKCode .rao pair k
  | .drllX ar xr => shiftXCode true .rll ar xr
  | .drllK pair k => doubleShiftKCode .rll pair k
  | .drloX ar xr => shiftXCode true .rlo ar xr
  | .drloK pair k => doubleShiftKCode .rlo pair k
  | .drlcX ar xr => shiftXCode true .rlc ar xr
  | .drlcK pair k => doubleShiftKCode .rlc pair k
  | .rsts f => statusCode false f
  | .sets f => statusCode true f
  | .enbl k => interruptCode 0 k
  | .enbw k => interruptCode 4 k
  | .dsbl k => interruptCode 8 k
  | .dsbw k => interruptCode 12 k
  | .stsm md d => directCode .stsm md d
  | .regm md d => directCode .regm md d
  | .retn md d => directCode .retn md d
  | .msts md d => directCode .msts md d
  | .mreg md d => directCode .mreg md d
  | .fclw ar m => fetchClearCode .word ar m
  | .fclb ar m => fetchClearCode .byte ar m
  | .skey k => keyCode k none
  | .jkey k target => keyCode k (some target)
  | .lcpu xr => processorCode 2 xr
  | .lkey xr => processorCode 3 xr
  | .rbitX ar xr => bitXCode .rbit ar xr
  | .rbitK ar k => bitKCode .rbit ar k
  | .rbitM ar xr mask => bitMCode .rbit ar xr mask
  | .sbitX ar xr => bitXCode .sbit ar xr
  | .sbitK ar k => bitKCode .sbit ar k
  | .sbitM ar xr mask => bitMCode .sbit ar xr mask
  | .cbitX ar xr => bitXCode .cbit ar xr
  | .cbitK ar k => bitKCode .cbit ar k
  | .cbitM ar xr mask => bitMCode .cbit ar xr mask
  | .ibitX ar xr => bitXCode .ibit ar xr
  | .ibitK ar k => bitKCode .ibit ar k
  | .ibitM ar xr mask => bitMCode .ibit ar xr mask
  | .tsbtX ar xr => bitXCode .tsbt ar xr
  | .tsbtK ar k => bitKCode .tsbt ar k
  | .tsbtM ar xr mask => bitMCode .tsbt ar xr mask
  | .tbitX ar xr => bitXCode .tbit ar xr
  | .tbitK ar k => bitKCode .tbit ar k
  | .tbitM ar xr mask => bitMCode .tbit ar xr mask
  | .negt ar xr => moveCode .negt ar xr
  | .cplm ar xr => moveCode .cplm ar xr
  | .movp ar xr => moveCode .movp ar xr
  | .movn ar xr => moveCode .movn ar xr
  | .dsta ar m => fixedCode .dsta ar m
  | .dsub ar m => fixedCode .dsub ar m
  | .dadd ar m => fixedCode .dadd ar m
  | .divd ar m => fixedCode .divd ar m
  | .dlod ar m => fixedCode .dlod ar m
  | .mlta ar m => fixedCode .mult ar m
  | .mult ar m => fixedCode .mult ar m
  | .zadd reg1 reg2 o => decimalCode .zadd reg1 reg2 o
  | .addd reg1 reg2 o => decimalCode .addd reg1 reg2 o
  | .subd reg1 reg2 o => decimalCode .subd reg1 reg2 o
  | .cmpd reg1 reg2 o => decimalCode .cmpd reg1 reg2 o
  | .sftr reg1 reg2 o => decimalCode .sftr reg1 reg2 o
  | .movr reg1 reg2 o => decimalCode .movr reg1 reg2 o
  | .sftl reg1 reg2 o => decimalCode .sftl reg1 reg2 o
  | .movl reg1 reg2 o => decimalCode .movl reg1 reg2 o
  | .comp reg1 reg2 o => decimalCode .comp reg1 reg2 o
  | .trap w => ⟨w, none⟩
  | .halt => controlCode 0 0
  | .waitE => interruptCode 4 0
  | .waitD => interruptCode 12 0

/-- The words of an instruction in the order in which they lie in memory (R100). -/
def Code.words (c : Code) : List Word := c.first :: c.second.toList

/-- The words of an instruction. -/
def encode (i : Instr) : List Word := (code i).words

/-! ## Bytes and the opcode table's numbering -/

/-- Why bytes are no instruction: they end before its last word does. -/
inductive DecodeError where
  | truncated
  deriving DecidableEq, Repr

/-- A word from its left byte (even address) and right byte (R60). -/
def wordOfBytes (left right : Byte) : Word := left ++ right

/-- The left byte, bits 15..8 (R60). -/
def leftByte (w : Word) : Byte := w.extractLsb' 8 8

/-- The right byte, bits 7..0 (R60). -/
def rightByte (w : Word) : Byte := w.extractLsb' 0 8

/-- The two bytes of a word, lowest address first (R60). -/
def wordBytes (w : Word) : List Byte := [leftByte w, rightByte w]

/-- The instruction at the start of a string of bytes, with the bytes after it. -/
def decodeBytes (mdl : Model) : List Byte → Except DecodeError (Instr × List Byte)
  | a :: b :: rest =>
    let w := wordOfBytes a b
    if hasSecondWord mdl w then
      match rest with
      | c :: d :: rest' => .ok (decode mdl w (wordOfBytes c d), rest')
      | _ => .error .truncated
    else .ok (decode mdl w 0, rest)
  | _ => .error .truncated

/-- An instruction as bytes. -/
def encodeBytes (i : Instr) : List Byte := (encode i).flatMap wordBytes

/-- The table gives all seven models' rows at once; a word is read as the model that implements its row reads it: class C
as the 1111B, every other class as the 1112B (together the two implement every row but the two that say a class is not
implemented). -/
def tableModel (w : Word) : Model := if fieldC w = 12 then .m1111B else .m1112B

/-- The first `nbits` bits of a number. -/
def lowBits (nbits w : Nat) : Nat := w % 2 ^ nbits

/-- The decoder's answer for an instruction numbered as spec/opcode_table.json numbers it (bit 0 the least significant bit
of the first word; a second word from bit 16 on), laid out in memory order with zeros above `nbits`. -/
def decodeTableWord (nbits w : Nat) : Option Instr :=
  let n := lowBits nbits w
  let first := BitVec.ofNat 16 n
  let second := BitVec.ofNat 16 (n / 2 ^ 16)
  match decodeBytes (tableModel first) (wordBytes first ++ wordBytes second) with
  | .ok (i, _) => some i
  | .error _ => none

end Sys2Proof
end

