-- ==== Sys2Proof/Machine/State.lean ====
section
/-! DEFINITION. The state of the machine as plain data, the reasons a step can stop, and the state after reset. -/

namespace Sys2Proof.Machine

/-- The eight general registers; `x0` is the program counter (R20). -/
structure Regs where
  x0 : Word
  x1 : Word
  x2 : Word
  x3 : Word
  x4 : Word
  x5 : Word
  x6 : Word
  x7 : Word
  deriving DecidableEq, Repr

/-- The run state (R47). -/
inductive RunState where
  | running | waiting | halted
  deriving DecidableEq, Repr

/-- A system interrupt request that the bus controller holds: its level and the module address word (R477, R481). -/
structure Request where
  level      : SysLevel
  moduleAddr : Word
  deriving DecidableEq, Repr

/-- An event that reaches the processor from outside between two of its steps (R9, R48, R271, R481). -/
inductive Input where
  /-- A module requests an interrupt (R481). -/
  | request (r : Request)
  /-- A module withdraws its request (R481). -/
  | withdraw (r : Request)
  /-- The RUN switch, or RUN enabled by another processor (R271). -/
  | run
  /-- Another bus master writes program memory (R9, R82). -/
  | busWrite (cells : List Host.Cell)
  /-- Another bus master writes a general register of this processor, halted, at its Table 2 address (R23, R498). -/
  | setRegister (r : Reg) (v : Word)
  /-- Another bus master writes the status register of this processor, halted, at its Table 2 address (R42, R498). -/
  | setStatus (v : Word)
  deriving DecidableEq, Repr

/-- Program memory: (address, byte) pairs, addresses rising, no entry equal to what an unlisted address reads as (R61). -/
abbrev Memory := List Host.Cell

/-- The machine. -/
structure State where
  /-- General registers (R20). -/
  regs : Regs
  /-- The status register (R30). -/
  st : Word
  /-- The key bits (R45). -/
  key : BitVec 2
  /-- The run state (R47). -/
  run : RunState
  /-- The contents of program memory (R61). -/
  mem : Memory
  /-- The pending interrupt requests, a set (R48, R481). -/
  pending : List Request
  /-- What the installation fixes (R8). -/
  par : Params
  /-- The input stream: the events before this step, before the next step, and so on (R481). -/
  inputs : List (List Input)
  /-- What the `DEVICE` oracle will reply to the next accesses (R78); when it is used up, `Config.deviceReply` replies. -/
  deviceScript : List DeviceReply
  /-- Every access that reached the `DEVICE` oracle, the newest first (R78). -/
  deviceLog : List DeviceAccess
  /-- THE MODEL'S OWN: how many free values have been used (assumption log 1). -/
  freeCount : Nat
  deriving DecidableEq, Repr

/-- The machine stops with a fault: the spec gives no behaviour to the situation, which is no instruction's own. -/
inductive Fault where
  /-- Raised by the fetch when the program counter is odd (R29: the model refuses to continue). Safe. -/
  | oddProgramCounter
  /-- Raised by an interrupt or trap entry when one of its own four transfers fails (R472: the model refuses). Safe. -/
  | entryAborted
  deriving DecidableEq, Repr

/-- No meaning for an instruction in the situation it is executed in. -/
inductive Refusal where
  /-- Raised by the dispatch for an instruction without a meaning. Safe. -/
  | notModelled (mnemonic : String)
  /-- Raised by a double-length instruction with an odd or zero pair designator, and by a class B instruction other than
  MULT with AR = 3, 5, 7 (R405, R431: refused). Safe. -/
  | pairDesignator
  /-- Raised by LCPU and LKEY with XR = 0 (R297, R298: refused). Safe. -/
  | processorRegisterTarget
  /-- Raised by a decimal instruction with R1 = 0 or, in the two-field format, R2 = 0 (R322: refused). Safe. -/
  | decimalRegisterZero
  /-- Raised by a decimal instruction on a field longer than 65,536 bytes (R323: outside the spec). Safe. -/
  | decimalFieldTooLong
  /-- Raised by MSTS and RETN when the word for the status register has bit 11, Active, clear (R40: refused). Safe. -/
  | activeBitCleared
  deriving DecidableEq, Repr

/-- The state after reset. The spec gives no reset value to any element (R52, R520): each value here is the model's
(assumption log 3), within the constraints of R520: the program counter even and in present memory, A = 1, running. -/
def State.reset : State :=
  { regs := { x0 := 0x0100, x1 := 0, x2 := 0, x3 := 0, x4 := 0, x5 := 0, x6 := 0, x7 := 0 }
    st := 0x0800
    key := 0
    run := .running
    mem := []
    pending := []
    par :=
      { model := .m1112B
        cpuId := 0
        memory := [{ first := 0, words := 0x7800, keys := 0xF }]
        devices := []
        pcOperand := .unstated
        trapSavedPc := .current
        entryStatus := .identity
        priority := [.l4, .l3, .l2, .l1] }
    inputs := []
    deviceScript := []
    deviceLog := []
    freeCount := 0 }

end Sys2Proof.Machine
end

