-- ==== Sys2Proof/Machine/Memory.lean ====
section
/-! DEFINITION. Program memory as a canonical list of cells, and the accessors of the registers, the status bits, the key, the
free values and the `DEVICE` oracle. -/

namespace Sys2Proof.Machine

/-! ## Cells -/

/-- What an unlisted address reads as. The spec gives memory no initial contents (R52): the model's choice (assumption
log 4). -/
def Memory.unlisted : Byte := 0

/-- The byte at an address (R61). -/
def Memory.read (m : Memory) (a : Nat) : Byte :=
  match m with
  | [] => Memory.unlisted
  | (k, v) :: rest => if k = a then v else Memory.read rest a

/-- The memory without an entry for an address. -/
def Memory.erase (m : Memory) (a : Nat) : Memory := m.filter fun c => c.1 != a

/-- An entry put in its place in a rising list that has none for its address. -/
def Memory.insert (m : Memory) (a : Nat) (v : Byte) : Memory :=
  match m with
  | [] => [(a, v)]
  | (k, w) :: rest => if a < k then (a, v) :: (k, w) :: rest else (k, w) :: Memory.insert rest a v

/-- One byte written; the canonical form is kept (R67). -/
def Memory.write (m : Memory) (a : Nat) (v : Byte) : Memory :=
  if v = Memory.unlisted then m.erase a else (m.erase a).insert a v

/-- The canonical form: addresses strictly rising, and no entry equal to what an unlisted address reads as. -/
def Memory.wf (m : Memory) : Bool :=
  decide (m.Pairwise fun c d => c.1 < d.1) && m.all fun c => c.2 != Memory.unlisted

/-! ## General registers -/

/-- The content of a general register (R20). -/
def Regs.get (x : Regs) : Reg → Word
  | .r0 => x.x0 | .r1 => x.x1 | .r2 => x.x2 | .r3 => x.x3 | .r4 => x.x4 | .r5 => x.x5 | .r6 => x.x6 | .r7 => x.x7

/-- A general register given a new content (R20). -/
def Regs.set (x : Regs) (r : Reg) (v : Word) : Regs :=
  match r with
  | .r0 => { x with x0 := v } | .r1 => { x with x1 := v } | .r2 => { x with x2 := v } | .r3 => { x with x3 := v }
  | .r4 => { x with x4 := v } | .r5 => { x with x5 := v } | .r6 => { x with x6 := v } | .r7 => { x with x7 := v }

/-- The content of a general register. -/
def State.reg (s : State) (r : Reg) : Word := s.regs.get r

/-- A write of a general register; register 0 is the program counter (R28). -/
def State.setReg (s : State) (r : Reg) (v : Word) : State := { s with regs := s.regs.set r v }

/-- The program counter, general register 0 (R25). -/
def State.pc (s : State) : Word := s.regs.x0

/-- `pc <- t` (R13). -/
def State.setPc (s : State) (v : Word) : State := { s with regs := { s.regs with x0 := v } }

/-! ## The other fields -/

/-- A write of the whole status register. -/
def State.setSt (s : State) (v : Word) : State := { s with st := v }

/-- A write of the key bits (R45). -/
def State.setKey (s : State) (k : BitVec 2) : State := { s with key := k }

/-- A change of the run state (R47). -/
def State.setRun (s : State) (r : RunState) : State := { s with run := r }

/-- A change of program memory. -/
def State.setMem (s : State) (m : Memory) : State := { s with mem := m }

/-- A change of the pending requests (R48). -/
def State.setPending (s : State) (p : List Request) : State := { s with pending := p }

/-- The byte of program memory at an address. -/
def State.byteAt (s : State) (a : Nat) : Byte := s.mem.read a

/-- The word of program memory at an address, whose bit 0 is no part of it (R62, R64). -/
def State.wordAt (s : State) (a : Word) : Word :=
  wordOfBytes (s.byteAt (a &&& 0xFFFE).toNat) (s.byteAt ((a &&& 0xFFFE).toNat + 1))

/-- A byte of program memory written (R67). -/
def State.putByte (s : State) (a : Nat) (v : Byte) : State := s.setMem (s.mem.write a v)

/-- A word of program memory written (R66). -/
def State.putWord (s : State) (a : Word) (v : Word) : State :=
  (s.putByte (a &&& 0xFFFE).toNat (leftByte v)).putByte ((a &&& 0xFFFE).toNat + 1) (rightByte v)

/-! ## Free values -/

/-- A free value has been used. -/
def State.countFree (s : State) : State := { s with freeCount := s.freeCount + 1 }

/-- A word that the spec leaves open (assumption log 1). -/
def State.freeWord (s : State) : Word := Config.freeWord s.freeCount

/-- A choice that the spec leaves open (assumption log 1). -/
def State.freeBit (s : State) : Bool := Config.freeBit s.freeCount

end Sys2Proof.Machine
end

