-- ==== Sys2Proof/Machine/Flags.lean ====
section
/-! DEFINITION. The status register's bits (`10_state.md` R30 to R41) and the results and indicators of the eight general
operations (`41_general_register.md` R171 to R181). -/

namespace Sys2Proof.Machine

/-- The indicators by name (R30). -/
inductive Indicator where
  | eq | gt | ov | cy | f1 | f2 | f3 | lp | od | ze | ng
  deriving DecidableEq, Repr

/-- The bit number of an indicator (R30). -/
def Indicator.bit : Indicator → Nat
  | .eq => 0 | .gt => 1 | .ov => 2 | .cy => 3 | .f1 => 4 | .f2 => 5 | .f3 => 6 | .lp => 7 | .od => 8 | .ze => 9 | .ng => 10

/-- An indicator of a status word. -/
def flag (st : Word) (i : Indicator) : Bool := st.getLsbD i.bit

/-- The status word with only one bit set, an indicator's. -/
def Indicator.mask (i : Indicator) : Word := 1#16 <<< i.bit

/-- A status word with one indicator given a value. -/
def putFlag (st : Word) (i : Indicator) (b : Bool) : Word := if b then st ||| i.mask else st &&& ~~~i.mask

/-- Bit 11, Active (R40). -/
def activeMask : Word := 0x0800

/-- Active (R40). -/
def active (st : Word) : Bool := st.getLsbD 11

/-- The four interrupt mask bits, `ST[15:12]` (R41). -/
def maskBits (st : Word) : BitVec 4 := st.extractLsb' 12 4

/-- K at the place of the mask bits (R275). -/
def maskWord (k : BitVec 4) : Word := k ++ 0#12

/-- `setNZO` of one word (R13). -/
def setNZO (st r : Word) : Word :=
  putFlag (putFlag (putFlag st .ng (r.getLsbD 15)) .ze (r == 0)) .od (r.getLsbD 0)

/-- `setNZO2` of a double-length result (R51). -/
def setNZO2 (st h l : Word) : Word :=
  putFlag (putFlag (putFlag st .ng (h.getLsbD 15)) .ze (h == 0 && l == 0)) .od (l.getLsbD 0)

/-- EQ and GT written (R31, R32). -/
def setCompare (st : Word) (eq gt : Bool) : Word := putFlag (putFlag st .eq eq) .gt gt

/-- OV set where the condition holds, unchanged elsewhere: it is sticky (R33). -/
def stickyOv (st : Word) (ov : Bool) : Word := if ov then putFlag st .ov true else st

/-! ## The general operations -/

/-- The operation stores its result (R171). -/
def storesResult : GrOp → Bool
  | .cmp | .tst => false
  | .mov | .sub | .add | .and | .ior | .eor => true

/-- The operation reads its target: every operation but MOV (R174, R193). -/
def readsTarget : GrOp → Bool
  | .mov => false
  | .sub | .add | .and | .ior | .eor | .cmp | .tst => true

/-- The result r from the source s and the target t (R171); CMP has none, 0 stands here. -/
def aluResult (op : GrOp) (s t : Word) : Word :=
  match op with
  | .mov => s
  | .sub => t - s
  | .add => t + s
  | .and => s &&& t
  | .ior => s ||| t
  | .eor => s ^^^ t
  | .cmp => 0
  | .tst => s &&& t

/-- The carry out of bit 15 of an addition (R176). -/
def addCarry (s t : Word) : Bool := decide (2 ^ 16 ≤ t.toNat + s.toNat)

/-- The carry out of bit 15 of t + ~s + 1 (R175). -/
def subCarry (s t : Word) : Bool := decide (2 ^ 16 ≤ t.toNat + (~~~s).toNat + 1)

/-- Overflow of an addition: operands of one sign, a sum of the other (R176). -/
def addOverflow (s t : Word) : Bool :=
  t.getLsbD 15 == s.getLsbD 15 && (t + s).getLsbD 15 != t.getLsbD 15

/-- Overflow of t - s (R175). -/
def subOverflow (s t : Word) : Bool :=
  t.getLsbD 15 != s.getLsbD 15 && (t - s).getLsbD 15 != t.getLsbD 15

/-- The status word after a general operation on source s and target t (R174 to R181). -/
def aluStatus (op : GrOp) (s t st : Word) : Word :=
  match op with
  | .mov | .and | .ior | .eor | .tst => setNZO st (aluResult op s t)
  | .add => setNZO (stickyOv (putFlag st .cy (addCarry s t)) (addOverflow s t)) (t + s)
  | .sub => setNZO (stickyOv (putFlag st .cy (subCarry s t)) (subOverflow s t)) (t - s)
  | .cmp => setCompare st (s == t) (decide (t.toNat < s.toNat))

/-- The indicators that a general operation writes or may set (R43). -/
def opIndicators : GrOp → Word
  | .mov | .and | .ior | .eor | .tst => 0x0700
  | .add | .sub => 0x070C
  | .cmp => 0x0003

/-! ## Branch conditions -/

/-- `cond(T)` of a tested condition (R220). -/
def condHolds (st : Word) : Cond → Bool
  | .eq => flag st .eq
  | .gt => flag st .gt
  | .ov => flag st .ov
  | .cy => flag st .cy
  | .f1 => flag st .f1
  | .f2 => flag st .f2
  | .f3 => flag st .f3
  | .lp => flag st .lp
  | .od => flag st .od
  | .ze => flag st .ze
  | .ng => flag st .ng
  | .lt => !flag st .gt && !flag st .eq

end Sys2Proof.Machine
end

