-- ==== Sys2Proof/Machine/Ops.lean ====
section
/-! DEFINITION. The shared operations of a step: the result of a part of an instruction, the bus, registers read as data,
taking an interrupt or trap, and running an instruction from its words. -/

namespace Sys2Proof.Machine

/-! ## Results of a part of an instruction -/

/-- What a part of an instruction does: it completes with a value, raises the unimplemented-instruction trap, raises the abort,
or has no meaning. -/
inductive Res (α : Type) where
  | ok (a : α) (s : State)
  /-- `raise Unimplemented` (R472); `saved` is the program counter to save where `TRAP_SAVED_PC` does not govern it (R474). -/
  | trap (saved : Option Word) (s : State)
  /-- `raise Abort` (R478): the address and the width of the failing transfer. -/
  | abort (a : Word) (wd : Width) (s : State)
  | refuse (r : Refusal)

/-- One part after another. -/
def Res.bind {α β : Type} (x : Res α) (f : α → State → Res β) : Res β :=
  match x with
  | .ok a s => f a s
  | .trap saved s => .trap saved s
  | .abort a wd s => .abort a wd s
  | .refuse r => .refuse r

/-- The state after an abort changed by `f`: the locations that a half-done instruction could write (R77, R475). -/
def Res.onAbort {α : Type} (x : Res α) (f : State → State) : Res α :=
  match x with
  | .abort a wd s => .abort a wd (f s)
  | .ok a s => .ok a s
  | .trap saved s => .trap saved s
  | .refuse r => .refuse r

/-- One action for each item of a list, in its order. -/
def eachOf {α : Type} (f : α → State → Res Unit) : List α → State → Res Unit
  | [], s => .ok () s
  | x :: xs, s => (f x s).bind fun _ s => eachOf f xs s

/-- One reading action for each item of a list, in its order. -/
def collect {α β : Type} (f : α → State → Res β) : List α → State → Res (List β)
  | [], s => .ok [] s
  | x :: xs, s => (f x s).bind fun b s => (collect f xs s).bind fun bs s => .ok (b :: bs) s

/-! ## The bus -/

/-- What answers at an address (R73, R76, R78). -/
inductive Site where
  | memory | device | nothing
  deriving DecidableEq, Repr

/-- The range answers at a byte address for an access that carries a key (R76, R80). -/
def inRange (key : BitVec 2) (a : Word) (r : MemRange) : Bool :=
  decide (r.first ≤ a.toNat / 2) && decide (a.toNat / 2 < r.first + r.words) && r.keys.getLsbD key.toNat

/-- F000 to FFFF are the device's; below, program memory where it is present, else what the platform gives to the device
(R64, R78). -/
def siteOf (par : Params) (key : BitVec 2) (a : Word) : Site :=
  if 0xF000 ≤ a.toNat then .device
  else if par.memory.any (inRange key a) then .memory
  else if par.devices.any (inRange key a) then .device
  else .nothing

/-- What answers this processor at an address, with its present key bits (R80). DESIGN CHOICE: on the 1110 basic too, of which
R45 and R80 do not say whether it drives key bits at all (assumption log 22). -/
def State.site (s : State) (a : Word) : Site := siteOf s.par s.key a

/-- The address on the bus: bit 0 of a word address is no part of it (R62). -/
def busAddress (wd : Width) (a : Word) : Word :=
  match wd with
  | .word => a &&& 0xFFFE
  | .byte => a

/-- The bytes of a word that an access of a width carries (R65, R67). -/
def dataOf (wd : Width) (v : Word) : Word :=
  match wd with
  | .word => v
  | .byte => v &&& 0x00FF

/-- A cell that another bus master writes: it changes program memory where memory is present for some key (R9, R78). DESIGN
CHOICE: R80 does not say which key bits such a write carries (assumption log 22). -/
def State.depositCell (s : State) (c : Host.Cell) : State :=
  if c.1 < 0xF000 && s.par.memory.any (fun r => decide (r.first ≤ c.1 / 2) && decide (c.1 / 2 < r.first + r.words)) then
    s.putByte c.1 c.2
  else s

/-- Cells that another bus master writes, in their order (R9, R78). -/
def State.depositCells (s : State) (cs : List Host.Cell) : State := cs.foldl State.depositCell s

/-- An access to the `DEVICE` oracle (R78): logged, and answered from the script or, when that is used up, by the free
oracle. `none` is no answer. -/
def deviceAccess (acc : DeviceAccess) (s : State) : Option Word × State :=
  let logged := { s with deviceLog := acc :: s.deviceLog }
  match s.deviceScript with
  | [] =>
    match Config.deviceReply (acc :: s.deviceLog) with
    | .noAnswer => (none, logged)
    | .answer v cs => (some v, logged.depositCells cs)
  | reply :: rest =>
    let logged := { logged with deviceScript := rest }
    match reply with
    | .noAnswer => (none, logged)
    | .answer v cs => (some v, logged.depositCells cs)

/-- `MemRead(a, n)` from program memory (R64, R65); a byte is widened with zeros. -/
def State.fetchData (s : State) (wd : Width) (a : Word) : Word :=
  match wd with
  | .word => s.wordAt a
  | .byte => (s.byteAt a.toNat).setWidth 16

/-- `MemWrite(a, n, v)` to program memory (R66, R67). -/
def State.putData (s : State) (wd : Width) (a v : Word) : State :=
  match wd with
  | .word => s.putWord a v
  | .byte => s.putByte a.toNat (rightByte v)

/-- `MemRead(a, n)` (R64, R65, R77, R78); a byte is widened with zeros. The access carries `State.key` (R80), on the 1110 basic
too: DESIGN CHOICE, assumption log 22. -/
def busRead (wd : Width) (a : Word) (s : State) : Res Word :=
  match s.site (busAddress wd a) with
  | .memory => .ok (s.fetchData wd a) s
  | .device =>
    match deviceAccess ⟨busAddress wd a, wd, s.key, none⟩ s with
    | (some v, s') => .ok (dataOf wd v) s'
    | (none, s') => .abort (busAddress wd a) wd s'
  | .nothing => .abort (busAddress wd a) wd s

/-- `MemWrite(a, n, v)` (R66, R67, R77, R78), with the key as for a read (assumption log 22). -/
def busWrite (wd : Width) (a v : Word) (s : State) : Res Unit :=
  match s.site (busAddress wd a) with
  | .memory => .ok () (s.putData wd a v)
  | .device =>
    match deviceAccess ⟨busAddress wd a, wd, s.key, some (dataOf wd v)⟩ s with
    | (some _, s') => .ok () s'
    | (none, s') => .abort (busAddress wd a) wd s'
  | .nothing => .abort (busAddress wd a) wd s

/-! ## Open values written to the state -/

/-- A register left with an open value. -/
def State.freeReg (s : State) (r : Reg) : State := (s.setReg r s.freeWord).countFree

/-- Registers left with open values. -/
def State.freeRegs (s : State) (rs : List Reg) : State := rs.foldl State.freeReg s

/-- The key bits left with an open value. -/
def State.freeKey (s : State) : State := (s.setKey (s.freeWord.setWidth 2)).countFree

/-- The status bits of a mask left with open values. -/
def State.freeStatus (s : State) (mask : Word) : State :=
  (s.setSt ((s.st &&& ~~~mask) ||| (s.freeWord &&& mask))).countFree

/-- A byte of program memory left with an open value, where memory is present. -/
def State.freeByte (s : State) (a : Word) : State :=
  match s.site a with
  | .memory => (s.putByte a.toNat (rightByte s.freeWord)).countFree
  | .device | .nothing => s

/-- Bytes of program memory left with open values, where memory is present. -/
def State.freeBytes (s : State) (as : List Word) : State := as.foldl State.freeByte s

/-- The two byte addresses of the word at an address (R62). -/
def bytesOfWord (a : Word) : List Word := [a &&& 0xFFFE, (a &&& 0xFFFE) + 1]

/-- The status register as it is stored: bit A reads 1 whenever an instruction executes (R40). -/
def State.statusWord (s : State) : Word := s.st ||| activeMask

/-! ## Taking an interrupt or trap -/

/-- The number of a system level (R460). -/
def levelNumber : SysLevel → Nat
  | .l1 => 1 | .l2 => 2 | .l3 => 3 | .l4 => 4

/-- The base of a level's block (R470). -/
def blockBase (cpu : BitVec 2) : Level → Word
  | .system l => BitVec.ofNat 16 (8 * (levelNumber l - 1))
  | .unimplemented => 0x0020 + 0x10 * cpu.setWidth 16
  | .abort => 0x0028 + 0x10 * cpu.setWidth 16

/-- `ENTRY_STATUS(ST, L)`, with bit A kept 1 (R476). -/
def entryStatus (par : Params) (l : Level) (st : Word) : Word :=
  match par.entryStatus with
  | .identity => st ||| activeMask
  | .unstated => Config.entryStatus l st ||| activeMask

/-- The four transfers and the changes of state of an entry (R472). -/
def entrySequence (l : Level) (info ret : Word) (s : State) : Res Unit :=
  let b := blockBase s.par.cpuId l
  let st := s.statusWord
  (busWrite .word b info s).bind fun _ s =>
  (busWrite .word (b + 2) st s).bind fun _ s =>
  (busWrite .word (b + 4) ret s).bind fun _ s =>
  let s := s.setSt (entryStatus s.par l s.st)
  (busRead .word (b + 6) s).bind fun t s =>
  .ok () ((s.setRun .running).setPc t)

/-- Take level `l` with information word `info` and return address `ret` (R472). -/
def takeLevel (l : Level) (info ret : Word) (s : State) : Host.Outcome State Fault Refusal :=
  match entrySequence l info ret s with
  | .ok _ s => .next s
  | .trap _ _ | .abort _ _ _ => .fault .entryAborted
  | .refuse r => .refused r

/-- The program counter value that a level-5 or level-6 entry saves (R474), for an instruction at `p` whose first word is `w`
(`none`: the fetch of the first word failed). -/
def trapSavedPc (p : Word) (w : Option Word) (s : State) : Word × State :=
  match s.par.trapSavedPc with
  | .current => (p, s)
  | .afterFirst => (p + 2, s)
  | .next =>
    match w.bind suggestedWords with
    | some n => (p + BitVec.ofNat 16 (2 * n), s)
    | none => (s.freeWord, s.countFree)
  | .unstated => (s.freeWord, s.countFree)

/-- `raise Unimplemented(w)` by the instruction at `p` (R472). -/
def raiseUnimplemented (p w : Word) (saved : Option Word) (s : State) : Host.Outcome State Fault Refusal :=
  match saved with
  | some ret => takeLevel .unimplemented w ret s
  | none =>
    let (ret, s) := trapSavedPc p (some w) s
    takeLevel .unimplemented w ret s

/-- The address word of an abort: bit 0 is open for a word access (R478). -/
def abortInfo (a : Word) (wd : Width) (s : State) : Word × State :=
  match wd with
  | .byte => (a, s)
  | .word => ((a &&& 0xFFFE) ||| (s.freeWord &&& 1), s.countFree)

/-- `raise Abort(a)` by the instruction at `p` whose first word is `w` (R478). -/
def raiseAbort (p : Word) (w : Option Word) (a : Word) (wd : Width) (s : State) : Host.Outcome State Fault Refusal :=
  let (ret, s) := trapSavedPc p w s
  let (info, s) := abortInfo a wd s
  takeLevel .abort info ret s

/-! ## Running an instruction -/

/-- The instruction being executed: its address P and its words. -/
structure Ctx where
  p    : Word
  code : Code

/-- NEXT, the address after the instruction's last word (R13). -/
def Ctx.next (c : Ctx) : Word :=
  match c.code.second with
  | none => c.p + 2
  | some _ => c.p + 4

/-- The outcome of an instruction from what its body did. -/
def finish (c : Ctx) (x : Res Unit) : Host.Outcome State Fault Refusal :=
  match x with
  | .ok _ s => .next s
  | .trap saved s => raiseUnimplemented c.p c.code.first saved s
  | .abort a wd s => raiseAbort c.p (some c.code.first) a wd s
  | .refuse r => .refused r

/-- Execute an instruction: the program counter advances to NEXT (R26) and the body then acts, writing it otherwise where
the instruction transfers control. -/
def execute (code : Code) (body : Ctx → State → Res Unit) (s : State) : Host.Outcome State Fault Refusal :=
  let c : Ctx := { p := s.pc, code := code }
  finish c (body c (s.setPc c.next))

/-- Execute an instruction that only some models implement; on another it is unimplemented (R3, R462). -/
def executeOn (implemented : Model → Bool) (code : Code) (body : Ctx → State → Res Unit) (s : State) :
    Host.Outcome State Fault Refusal :=
  execute code (fun c s => if implemented s.par.model then body c s else .trap none s) s

end Sys2Proof.Machine
end

