-- ==== Sys2Proof/Machine/Operands.lean ====
section
/-! DEFINITION. Operand forms: registers read as data, address development (`40_addressing.md`), the D field (R105, R106, R221,
R274) and the register pairs of the double-length instructions (R405, R431). -/

namespace Sys2Proof.Machine

/-- A general register read as data: register 0 gives `PC_OPERAND` (R27). -/
def dataReg (c : Ctx) (r : Reg) (s : State) : Word × State :=
  match r with
  | .r0 =>
    match s.par.pcOperand with
    | .current => (c.p, s)
    | .next => (c.next, s)
    | .unstated => (s.freeWord, s.countFree)
  | r => (s.reg r, s)

/-- The automatic step of a class (R141). -/
inductive AutoStep where
  | none | inc | dec
  deriving DecidableEq, Repr

/-- R141. -/
def autoStep : GrClass → AutoStep
  | .load | .store => .none
  | .loadInc | .storeInc => .inc
  | .loadDec | .storeDec => .dec

/-- The step size e (R141). -/
def stepSize : Width → Word
  | .byte => 1
  | .word => 2

/-- The index register stepped by an amount; XR = 0 steps the program counter, from its value as data (R147, R156, R159). -/
def stepIndex (c : Ctx) (xr : Reg) (amount : Word) (s : State) : State :=
  let (v, s) := dataReg c xr s
  s.setReg xr (v + amount)

/-- X: the index value, 0 for XR = 0 (R148). -/
def indexValue (xr : Reg) (s : State) : Word :=
  match xr with
  | .r0 => 0
  | xr => s.reg xr

/-- The further levels of a word-mode indirect chain: read on while bit 0 of the word read is 1, at most `fuel` more words,
else trap (R153, R154). -/
def indirectChain : Nat → Word → State → Res Word
  | 0, t, s => if t.getLsbD 0 then .trap none s else .ok t s
  | n + 1, t, s =>
    if t.getLsbD 0 then (busRead .word t s).bind fun t s => indirectChain n t s else .ok t s

/-- The operand's address from the developed address: one indirect level, and in word mode the chain; a chain needs at most 15
reads (R153, R154). -/
def resolveIndirect (wd : Width) (ind : Bool) (d0 : Word) (s : State) : Res Word :=
  if ind then
    (busRead .word d0 s).bind fun t s =>
      match wd with
      | .word => indirectChain 14 t s
      | .byte => .ok t s
  else .ok d0 s

/-- The format names no address: E = 0 and XR = 0 (R143). -/
def noAddress (m : MemOp) : Bool := m.ext == none && m.xr == .r0

/-- The effective operand address M (R150). LP is written when the instruction completes (R158). -/
def effectiveAddress (c : Ctx) (auto : AutoStep) (wd : Width) (m : MemOp) (s : State) : Res Word :=
  if noAddress m then .trap none s
  else
    let s := match auto with
      | .dec => stepIndex c m.xr (-stepSize wd) s
      | .none | .inc => s
    (resolveIndirect wd m.ind (m.ext.getD 0 + indexValue m.xr s) s).bind fun a s =>
      .ok a (match auto with
        | .inc => stepIndex c m.xr (stepSize wd) s
        | .none | .dec => s)

/-- `sext_8(D)` words, in bytes (R105). -/
def displacement (d : BitVec 8) : Word := 2 * d.signExtend 16

/-- A branch target (R221). -/
def branchTarget (c : Ctx) (d : BitVec 8) : Word := c.p + displacement d

/-- The address M of a control instruction with a D field (R274). -/
def directAddress (c : Ctx) (md : AddrMode) (d : BitVec 8) : Word :=
  match md with
  | .absolute => 2 * d.setWidth 16
  | .relative => c.p + displacement d

/-- The seven word addresses M, M + 2, ..., M + 12 (R283, R286). -/
def sevenWords (m : Word) : List Word := [m, m + 2, m + 4, m + 6, m + 8, m + 10, m + 12]

/-- Registers 1 to 7 (R283). -/
def registers1to7 : List Reg := [.r1, .r2, .r3, .r4, .r5, .r6, .r7]

/-- The odd register of the pair that an even register begins (R24). -/
def pairLow : Reg → Reg
  | .r0 | .r1 => .r1
  | .r2 | .r3 => .r3
  | .r4 | .r5 => .r5
  | .r6 | .r7 => .r7

/-- The even register of the pair that a register belongs to (R24). -/
def pairHigh : Reg → Reg
  | .r0 | .r1 => .r0
  | .r2 | .r3 => .r2
  | .r4 | .r5 => .r4
  | .r6 | .r7 => .r6

/-- A register that designates a pair: 2, 4 or 6 (R405). -/
def isPair : Reg → Bool
  | .r2 | .r4 | .r6 => true
  | .r0 | .r1 | .r3 | .r5 | .r7 => false

/-- The pair designator of the immediate double shift, 2 * w[6:5] (R405). -/
def pairReg (b : BitVec 2) : Reg := regOf (b ++ 0#1)

end Sys2Proof.Machine
end

