-- ==== Sys2Proof/Machine/BitMove.lean ====
section
/-! DEFINITION. Bit manipulation and register moves of the 1112 models, class 4 (`46_bit_move_1112.md`). -/

namespace Sys2Proof.Machine

/-! ## The shared operations -/

/-- The value that a bit operation leaves in the accumulator `a`, for the mask `m` (R364 to R369). -/
def bitResult (op : BitOp) (a m : Word) : Word :=
  match op with
  | .rbit => a &&& ~~~m
  | .sbit => a ||| m
  | .cbit => a ^^^ m
  | .ibit => a &&& m
  | .tsbt => a <<< 1
  | .tbit => a

/-- The common test, then the operation: CY tells whether a designated bit was set (R362); NG, ZE, OD are those of the value
written, and open after TBIT (R363). DESIGN CHOICE, assumption log 35: RBIT, SBIT and CBIT of register 0 with a mask of 0 write
the program counter too. -/
def bitApply (c : Ctx) (op : BitOp) (ar : Reg) (m : Word) (s : State) : State :=
  let (a, s) := dataReg c ar s
  let s := s.setSt (putFlag s.st .cy (a &&& m != 0))
  match op with
  | .tbit => s.freeStatus 0x0700
  | op => (s.setSt (setNZO s.st (bitResult op a m))).setReg ar (bitResult op a m)

/-- The mask of one bit (R360). -/
def bitMask (n : BitVec 4) : Word := 1#16 <<< n.toNat

/-- Bit number in the low four bits of a register (R360). -/
def bitX (op : BitOp) (ar xr : Reg) (s : State) : Host.Outcome State Fault Refusal :=
  executeOn Model.isScientific (bitXCode op ar xr) (fun c s =>
    let (n, s) := dataReg c xr s
    .ok () (bitApply c op ar (bitMask (n.extractLsb' 0 4)) s)) s

/-- Bit number K (R360). -/
def bitK (op : BitOp) (ar : Reg) (k : BitVec 4) (s : State) : Host.Outcome State Fault Refusal :=
  executeOn Model.isScientific (bitKCode op ar k) (fun c s => .ok () (bitApply c op ar (bitMask k) s)) s

/-- What a bit operation may leave after an abort of the fetch of its mask word (R475): CY, NG, ZE, OD and the accumulator where
it writes it. -/
def abortedMask (op : BitOp) (ar : Reg) (s : State) : State :=
  match op with
  | .tbit => s.freeStatus 0x0708
  | .rbit | .sbit | .cbit | .ibit | .tsbt => (s.freeStatus 0x0708).freeReg ar

/-- The mask word, ANDed with register XR where XR is not 0 (R360). -/
def bitM (op : BitOp) (ar xr : Reg) (mask : Word) (s : State) : Host.Outcome State Fault Refusal :=
  executeOn Model.isScientific (bitMCode op ar xr mask) (fun c s =>
    let m := match xr with
      | .r0 => mask
      | xr => mask &&& s.reg xr
    .ok () (bitApply c op ar m s)) s

/-- f of the register moves (R377 to R380). -/
def moveResult (op : MoveOp) (v : Word) : Word :=
  match op with
  | .negt => -v
  | .cplm => ~~~v
  | .movp => if v.getLsbD 15 then -v else v
  | .movn => if v.getLsbD 15 then v else -v

/-- A register move (R376). -/
def moveRegister (op : MoveOp) (ar xr : Reg) (s : State) : Host.Outcome State Fault Refusal :=
  executeOn Model.isScientific (moveCode op ar xr) (fun c s =>
    let (v, s) := dataReg c xr s
    .ok () ((s.setSt (setNZO s.st (moveResult op v))).setReg ar (moveResult op v))) s

/-! ## The instructions -/

/-- RBIT: bit number in a register (R364, R360, R362, R363). -/
def execRbitX (ar : Reg) (xr : Reg) (s : State) : Host.Outcome State Fault Refusal :=
  bitX .rbit ar xr s

/-- RBIT: bit number K (R364, R360, R362, R363). -/
def execRbitK (ar : Reg) (k : BitVec 4) (s : State) : Host.Outcome State Fault Refusal :=
  bitK .rbit ar k s

/-- RBIT: mask word (R364, R360, R362, R363). -/
def execRbitM (ar : Reg) (xr : Reg) (mask : Word) (s : State) : Host.Outcome State Fault Refusal :=
  bitM .rbit ar xr mask s

/-- SBIT: bit number in a register (R365, R360, R362, R363). -/
def execSbitX (ar : Reg) (xr : Reg) (s : State) : Host.Outcome State Fault Refusal :=
  bitX .sbit ar xr s

/-- SBIT: bit number K (R365, R360, R362, R363). -/
def execSbitK (ar : Reg) (k : BitVec 4) (s : State) : Host.Outcome State Fault Refusal :=
  bitK .sbit ar k s

/-- SBIT: mask word (R365, R360, R362, R363). -/
def execSbitM (ar : Reg) (xr : Reg) (mask : Word) (s : State) : Host.Outcome State Fault Refusal :=
  bitM .sbit ar xr mask s

/-- CBIT: bit number in a register (R366, R360, R362, R363). -/
def execCbitX (ar : Reg) (xr : Reg) (s : State) : Host.Outcome State Fault Refusal :=
  bitX .cbit ar xr s

/-- CBIT: bit number K (R366, R360, R362, R363). -/
def execCbitK (ar : Reg) (k : BitVec 4) (s : State) : Host.Outcome State Fault Refusal :=
  bitK .cbit ar k s

/-- CBIT: mask word (R366, R360, R362, R363). -/
def execCbitM (ar : Reg) (xr : Reg) (mask : Word) (s : State) : Host.Outcome State Fault Refusal :=
  bitM .cbit ar xr mask s

/-- IBIT: bit number in a register (R367, R360, R362, R363). -/
def execIbitX (ar : Reg) (xr : Reg) (s : State) : Host.Outcome State Fault Refusal :=
  bitX .ibit ar xr s

/-- IBIT: bit number K (R367, R360, R362, R363). -/
def execIbitK (ar : Reg) (k : BitVec 4) (s : State) : Host.Outcome State Fault Refusal :=
  bitK .ibit ar k s

/-- IBIT: mask word (R367, R360, R362, R363). -/
def execIbitM (ar : Reg) (xr : Reg) (mask : Word) (s : State) : Host.Outcome State Fault Refusal :=
  bitM .ibit ar xr mask s

/-- TSBT: bit number in a register (R368, R360, R362, R363). -/
def execTsbtX (ar : Reg) (xr : Reg) (s : State) : Host.Outcome State Fault Refusal :=
  bitX .tsbt ar xr s

/-- TSBT: bit number K (R368, R360, R362, R363). -/
def execTsbtK (ar : Reg) (k : BitVec 4) (s : State) : Host.Outcome State Fault Refusal :=
  bitK .tsbt ar k s

/-- TSBT: mask word (R368, R360, R362, R363). -/
def execTsbtM (ar : Reg) (xr : Reg) (mask : Word) (s : State) : Host.Outcome State Fault Refusal :=
  bitM .tsbt ar xr mask s

/-- TBIT: bit number in a register (R369, R360, R362, R363). -/
def execTbitX (ar : Reg) (xr : Reg) (s : State) : Host.Outcome State Fault Refusal :=
  bitX .tbit ar xr s

/-- TBIT: bit number K (R369, R360, R362, R363). -/
def execTbitK (ar : Reg) (k : BitVec 4) (s : State) : Host.Outcome State Fault Refusal :=
  bitK .tbit ar k s

/-- TBIT: mask word (R369, R360, R362, R363). -/
def execTbitM (ar : Reg) (xr : Reg) (mask : Word) (s : State) : Host.Outcome State Fault Refusal :=
  bitM .tbit ar xr mask s

/-- NEGT: R377, R376. -/
def execNegt (ar : Reg) (xr : Reg) (s : State) : Host.Outcome State Fault Refusal :=
  moveRegister .negt ar xr s

/-- CPLM: R378, R376. -/
def execCplm (ar : Reg) (xr : Reg) (s : State) : Host.Outcome State Fault Refusal :=
  moveRegister .cplm ar xr s

/-- MOVP: R379, R376. -/
def execMovp (ar : Reg) (xr : Reg) (s : State) : Host.Outcome State Fault Refusal :=
  moveRegister .movp ar xr s

/-- MOVN: R380, R376. -/
def execMovn (ar : Reg) (xr : Reg) (s : State) : Host.Outcome State Fault Refusal :=
  moveRegister .movn ar xr s

end Sys2Proof.Machine
end

