-- ==== Sys2Proof/Machine/Branch.lean ====
section
/-! DEFINITION. The branch instructions, classes 8 and 9 (`42_branch.md`). -/

namespace Sys2Proof.Machine

/-! ## The shared operations -/

/-- NOPR: never branches (R225). -/
def noOperation (d : BitVec 8) (s : State) : Host.Outcome State Fault Refusal :=
  execute (branchCode false 0 d) (fun _ s => .ok () s) s

/-- BRUN: always branches (R226). -/
def branchAlways (d : BitVec 8) (s : State) : Host.Outcome State Fault Refusal :=
  execute (branchCode true 0 d) (fun c s => .ok () (s.setPc (branchTarget c d))) s

/-- A conditional branch: taken when the condition has the class's sense (R222, R223). -/
def branchOn (sense : Bool) (cond : Cond) (d : BitVec 8) (s : State) : Host.Outcome State Fault Refusal :=
  execute (branchCode sense cond.bits d) (fun c s =>
    .ok () (if condHolds s.st cond == sense then s.setPc (branchTarget c d) else s)) s

/-! ## The instructions -/

/-- NOPR: R225. -/
def execNopr (d : BitVec 8) (s : State) : Host.Outcome State Fault Refusal :=
  noOperation d s

/-- BRUN: R226. -/
def execBrun (d : BitVec 8) (s : State) : Host.Outcome State Fault Refusal :=
  branchAlways d s

/-- BEQT: class 9: branch when EQ is true (R227, R221, R222, R223). -/
def execBeqt (d : BitVec 8) (s : State) : Host.Outcome State Fault Refusal :=
  branchOn true .eq d s

/-- BEQF: class 8: branch when EQ is false (R227, R221, R222, R223). -/
def execBeqf (d : BitVec 8) (s : State) : Host.Outcome State Fault Refusal :=
  branchOn false .eq d s

/-- BGTT: class 9: branch when GT is true (R228, R221, R222, R223). -/
def execBgtt (d : BitVec 8) (s : State) : Host.Outcome State Fault Refusal :=
  branchOn true .gt d s

/-- BGTF: class 8: branch when GT is false (R228, R221, R222, R223). -/
def execBgtf (d : BitVec 8) (s : State) : Host.Outcome State Fault Refusal :=
  branchOn false .gt d s

/-- BOVT: class 9: branch when OV is true (R229, R221, R222, R223). -/
def execBovt (d : BitVec 8) (s : State) : Host.Outcome State Fault Refusal :=
  branchOn true .ov d s

/-- BOVF: class 8: branch when OV is false (R229, R221, R222, R223). -/
def execBovf (d : BitVec 8) (s : State) : Host.Outcome State Fault Refusal :=
  branchOn false .ov d s

/-- BCYT: class 9: branch when CY is true (R230, R221, R222, R223). -/
def execBcyt (d : BitVec 8) (s : State) : Host.Outcome State Fault Refusal :=
  branchOn true .cy d s

/-- BCYF: class 8: branch when CY is false (R230, R221, R222, R223). -/
def execBcyf (d : BitVec 8) (s : State) : Host.Outcome State Fault Refusal :=
  branchOn false .cy d s

/-- BF1T: class 9: branch when F1 is true (R231, R221, R222, R223). -/
def execBf1t (d : BitVec 8) (s : State) : Host.Outcome State Fault Refusal :=
  branchOn true .f1 d s

/-- BF1F: class 8: branch when F1 is false (R231, R221, R222, R223). -/
def execBf1f (d : BitVec 8) (s : State) : Host.Outcome State Fault Refusal :=
  branchOn false .f1 d s

/-- BF2T: class 9: branch when F2 is true (R231, R221, R222, R223). -/
def execBf2t (d : BitVec 8) (s : State) : Host.Outcome State Fault Refusal :=
  branchOn true .f2 d s

/-- BF2F: class 8: branch when F2 is false (R231, R221, R222, R223). -/
def execBf2f (d : BitVec 8) (s : State) : Host.Outcome State Fault Refusal :=
  branchOn false .f2 d s

/-- BF3T: class 9: branch when F3 is true (R231, R221, R222, R223). -/
def execBf3t (d : BitVec 8) (s : State) : Host.Outcome State Fault Refusal :=
  branchOn true .f3 d s

/-- BF3F: class 8: branch when F3 is false (R231, R221, R222, R223). -/
def execBf3f (d : BitVec 8) (s : State) : Host.Outcome State Fault Refusal :=
  branchOn false .f3 d s

/-- BLPT: class 9: branch when LP is true (R232, R221, R222, R223). -/
def execBlpt (d : BitVec 8) (s : State) : Host.Outcome State Fault Refusal :=
  branchOn true .lp d s

/-- BLPF: class 8: branch when LP is false (R232, R221, R222, R223). -/
def execBlpf (d : BitVec 8) (s : State) : Host.Outcome State Fault Refusal :=
  branchOn false .lp d s

/-- BODT: class 9: branch when OD is true (R233, R221, R222, R223). -/
def execBodt (d : BitVec 8) (s : State) : Host.Outcome State Fault Refusal :=
  branchOn true .od d s

/-- BODF: class 8: branch when OD is false (R233, R221, R222, R223). -/
def execBodf (d : BitVec 8) (s : State) : Host.Outcome State Fault Refusal :=
  branchOn false .od d s

/-- BZET: class 9: branch when ZE is true (R234, R221, R222, R223). -/
def execBzet (d : BitVec 8) (s : State) : Host.Outcome State Fault Refusal :=
  branchOn true .ze d s

/-- BZEF: class 8: branch when ZE is false (R234, R221, R222, R223). -/
def execBzef (d : BitVec 8) (s : State) : Host.Outcome State Fault Refusal :=
  branchOn false .ze d s

/-- BNGT: class 9: branch when NG is true (R235, R221, R222, R223). -/
def execBngt (d : BitVec 8) (s : State) : Host.Outcome State Fault Refusal :=
  branchOn true .ng d s

/-- BNGF: class 8: branch when NG is false (R235, R221, R222, R223). -/
def execBngf (d : BitVec 8) (s : State) : Host.Outcome State Fault Refusal :=
  branchOn false .ng d s

/-- BLTT: class 9: branch when LT is true (R236, R221, R222, R223). -/
def execBltt (d : BitVec 8) (s : State) : Host.Outcome State Fault Refusal :=
  branchOn true .lt d s

/-- BLTF: class 8: branch when LT is false (R236, R221, R222, R223). -/
def execBltf (d : BitVec 8) (s : State) : Host.Outcome State Fault Refusal :=
  branchOn false .lt d s

end Sys2Proof.Machine
end

