-- ==== Sys2Proof/Machine/Interrupt.lean ====
section
/-! DEFINITION. System interrupts: the input events, what is enabled and pending, the recognition point and the wait
(`60_exceptions.md` R480 to R485, `44_control.md` R280). -/

namespace Sys2Proof.Machine

/-- The request as a member of the pending set (R481). -/
def addRequest (r : Request) (p : List Request) : List Request := if r ∈ p then p else p ++ [r]

/-- A write of a register of this processor by another bus master: taken by a halted processor only (R498, assumption
log 19). -/
def State.panelWrite (s : State) (f : State → State) : State :=
  match s.run with
  | .halted => f s
  | .running | .waiting => s

/-- One input event (R9, R271, R481, R498). -/
def applyInput (s : State) (i : Input) : State :=
  match i with
  | .request r => s.setPending (addRequest r s.pending)
  | .withdraw r => s.setPending (s.pending.erase r)
  | .run =>
    match s.run with
    | .halted => s.setRun .running
    | .running | .waiting => s
  | .busWrite cells => s.depositCells cells
  | .setRegister r v => s.panelWrite fun s => s.setReg r v
  | .setStatus v => s.panelWrite fun s => s.setSt (v ||| activeMask)

/-- The events before this step, in their order (R481). -/
def arrive (s : State) : State :=
  match s.inputs with
  | [] => s
  | events :: rest => events.foldl applyInput { s with inputs := rest }

/-- Level L is enabled exactly when its mask bit, status bit 11 + L, is 0 (R482). -/
def levelEnabled (st : Word) (l : SysLevel) : Bool := !st.getLsbD (11 + levelNumber l)

/-- A request of the level is pending (R481). -/
def levelPending (p : List Request) (l : SysLevel) : Bool := p.any fun r => r.level == l

/-- The enabled level with a pending request that `INT_PRIORITY` ranks first (R483). -/
def pickLevel (s : State) : Option SysLevel :=
  s.par.priority.find? fun l => levelEnabled s.st l && levelPending s.pending l

/-- The requests pending on a level. -/
def requestsOf (l : SysLevel) (s : State) : List Request := s.pending.filter fun r => r.level == l

/-- The request of a level that is delivered: which of several is open (R481). -/
def chooseRequest (l : SysLevel) (s : State) : Option Request × State :=
  match requestsOf l s with
  | [] => (none, s)
  | [r] => (some r, s)
  | r :: rs => ((r :: rs)[s.freeWord.toNat % (r :: rs).length]?, s.countFree)

/-- Take a system level: one request is consumed, and the return address is the program counter (R472, R481, R483). -/
def takeSystem (l : SysLevel) (s : State) : Host.Outcome State Fault Refusal :=
  match chooseRequest l s with
  | (some r, s) => takeLevel (.system l) r.moduleAddr s.pc (s.setPending (s.pending.erase r))
  | (none, s) => .next s

/-- What a waiting processor does, whose program counter is the address P of the wait instruction, as it enters the wait and at
each later step: an enabled request of level 4 is taken, with P saved; one of levels 1 to 3 ends the wait, at NEXT, and stays
pending; without one it goes on waiting (R280, R485). -/
def waitStep (s : State) : Host.Outcome State Fault Refusal :=
  match pickLevel s with
  | none => .next s
  | some .l4 => takeSystem .l4 s
  | some .l1 | some .l2 | some .l3 => .next ((s.setRun .running).setPc (s.pc + 2))

end Sys2Proof.Machine
end

