-- ==== Sys2Proof/Machine/Control.lean ====
section
/-! DEFINITION. The control instructions, class 0 (`44_control.md`). -/

namespace Sys2Proof.Machine

/-! ## The shared operations -/

/-- HALT: the program counter is at NEXT and the processor halts (R271). -/
def haltProcessor (s : State) : Host.Outcome State Fault Refusal :=
  execute (controlCode 0 0) (fun _ s => .ok () (s.setRun .halted)) s

/-- RSTS: the bits of F reset in `ST[6:0]` (R272). -/
def resetStatus (f : BitVec 7) (s : State) : Host.Outcome State Fault Refusal :=
  execute (statusCode false f) (fun _ s => .ok () (s.setSt (s.st &&& ~~~(f.setWidth 16)))) s

/-- SETS: the bits of F set in `ST[6:0]` (R273). -/
def setStatusBits (f : BitVec 7) (s : State) : Host.Outcome State Fault Refusal :=
  execute (statusCode true f) (fun _ s => .ok () (s.setSt (s.st ||| f.setWidth 16))) s

/-- ENBL: the mask bits of K reset (R276). -/
def enableLevels (k : BitVec 4) (s : State) : Host.Outcome State Fault Refusal :=
  execute (interruptCode 0 k) (fun _ s => .ok () (s.setSt (s.st &&& ~~~maskWord k))) s

/-- DSBL: the mask bits of K set (R277). -/
def disableLevels (k : BitVec 4) (s : State) : Host.Outcome State Fault Refusal :=
  execute (interruptCode 8 k) (fun _ s => .ok () (s.setSt (s.st ||| maskWord k))) s

/-- ENBW, DSBW and WAIT: the mask bits updated; with all four set, the trap, which saves P; else the processor waits, with the
program counter at P, the instruction's own address, and a request already pending on an enabled level ends the wait at once
(R280). -/
def waitForInterrupt (code : Code) (update : Word → Word) (s : State) : Host.Outcome State Fault Refusal :=
  if maskBits (update s.st) = 0xF then
    execute code (fun c s => .trap (some c.p) (s.setSt (update s.st))) s
  else waitStep ((s.setSt (update s.st)).setRun .waiting)

/-- ENBW (R278). -/
def enableAndWait (k : BitVec 4) (s : State) : Host.Outcome State Fault Refusal :=
  waitForInterrupt (interruptCode 4 k) (fun st => st &&& ~~~maskWord k) s

/-- DSBW (R279). -/
def disableAndWait (k : BitVec 4) (s : State) : Host.Outcome State Fault Refusal :=
  waitForInterrupt (interruptCode 12 k) (fun st => st ||| maskWord k) s

/-- STSM: the status register to memory, bit A as 1 (R282). -/
def storeStatus (md : AddrMode) (d : BitVec 8) (s : State) : Host.Outcome State Fault Refusal :=
  execute (directCode .stsm md d) (fun c s => busWrite .word (directAddress c md d) s.statusWord s) s

/-- REGM: registers 1 to 7 to seven words, in ascending order (R283); after an abort part-way the words hold open values
(R475). -/
def storeRegisters (md : AddrMode) (d : BitVec 8) (s : State) : Host.Outcome State Fault Refusal :=
  execute (directCode .regm md d) (fun c s =>
    let words := sevenWords (directAddress c md d)
    (eachOf (fun (p : Reg × Word) s => busWrite .word p.2 (s.reg p.1) s) (registers1to7.zip words) s).onAbort
      fun s => s.freeBytes (words.flatMap bytesOfWord)) s

/-- A word for the status register: bit A must be set (R40). -/
def loadStatusWord (v : Word) (s : State) : Res Unit :=
  if active v then .ok () (s.setSt v) else .refuse .activeBitCleared

/-- RETN: the words at M and M + 2 to the status register and the program counter (R284); after an abort the status register
holds an open value, bit A but 1 (R40, R475). -/
def returnFromInterrupt (md : AddrMode) (d : BitVec 8) (s : State) : Host.Outcome State Fault Refusal :=
  execute (directCode .retn md d) (fun c s =>
    ((busRead .word (directAddress c md d) s).bind fun v s =>
      (busRead .word (directAddress c md d + 2) s).bind fun t s =>
      (loadStatusWord v s).bind fun _ s => .ok () (s.setPc t)).onAbort fun s => s.freeStatus (~~~activeMask)) s

/-- MSTS: a word to the status register (R285); after an abort it holds an open value, bit A but 1 (R40, R475). -/
def loadStatus (md : AddrMode) (d : BitVec 8) (s : State) : Host.Outcome State Fault Refusal :=
  execute (directCode .msts md d) (fun c s =>
    ((busRead .word (directAddress c md d) s).bind loadStatusWord).onAbort fun s => s.freeStatus (~~~activeMask)) s

/-- MREG: seven words to registers 1 to 7, in ascending order (R286); after an abort part-way the registers hold open values
(R475). -/
def loadRegisters (md : AddrMode) (d : BitVec 8) (s : State) : Host.Outcome State Fault Refusal :=
  execute (directCode .mreg md d) (fun c s =>
    (eachOf (fun (p : Reg × Word) s => (busRead .word p.2 s).bind fun v s => .ok () (s.setReg p.1 v))
      (registers1to7.zip (sevenWords (directAddress c md d))) s).onAbort
      fun s => s.freeRegs registers1to7) s

/-- FCLW and FCLB (R289): on the B series the operand is read and cleared and goes to the accumulator (R290, R291); on the A
series operand and accumulator are cleared (R292). After an abort the accumulator holds an open value (R77, R475). -/
def fetchAndClear (wd : Width) (ar : Reg) (m : MemOp) (s : State) : Host.Outcome State Fault Refusal :=
  executeOn Model.hasKey (fetchClearCode wd ar m) (fun c s =>
    ((effectiveAddress c .none wd m s).bind fun a s =>
      if s.par.model.isBSeries then
        (busRead wd a s).bind fun v s =>
        (busWrite wd a 0 s).bind fun _ s => .ok () (s.setReg ar v)
      else (busWrite wd a 0 s).bind fun _ s => .ok () (s.setReg ar 0)).onAbort fun s => s.freeReg ar) s

/-- SKEY (R295). -/
def storeKey (k : BitVec 2) (s : State) : Host.Outcome State Fault Refusal :=
  executeOn Model.hasKey (keyCode k none) (fun _ s => .ok () (s.setKey k)) s

/-- JKEY (R296). -/
def jumpKey (k : BitVec 2) (target : Word) (s : State) : Host.Outcome State Fault Refusal :=
  executeOn Model.isScientific (keyCode k (some target)) (fun _ s => .ok () ((s.setKey k).setPc target)) s

/-- The target register of LCPU and LKEY; XR = 0 is refused (R297, R298). -/
def loadProcessorRegister (xr : Reg) (v : Word) (s : State) : Res Unit :=
  match xr with
  | .r0 => .refuse .processorRegisterTarget
  | xr => .ok () (s.setReg xr v)

/-- LCPU: the processor number to bits 6..5 (R297). -/
def loadCpuNumber (xr : Reg) (s : State) : Host.Outcome State Fault Refusal :=
  executeOn Model.isScientific (processorCode 2 xr) (fun _ s =>
    loadProcessorRegister xr (s.par.cpuId.setWidth 16 <<< 5) s) s

/-- LKEY: the key bits, right justified (R298). -/
def loadKey (xr : Reg) (s : State) : Host.Outcome State Fault Refusal :=
  executeOn Model.isScientific (processorCode 3 xr) (fun _ s => loadProcessorRegister xr (s.key.setWidth 16) s) s

/-! ## The instructions -/

/-- RSTS: R272. -/
def execRsts (f : BitVec 7) (s : State) : Host.Outcome State Fault Refusal :=
  resetStatus f s

/-- SETS: R273. -/
def execSets (f : BitVec 7) (s : State) : Host.Outcome State Fault Refusal :=
  setStatusBits f s

/-- ENBL: R276. -/
def execEnbl (k : BitVec 4) (s : State) : Host.Outcome State Fault Refusal :=
  enableLevels k s

/-- ENBW: R278, R280. -/
def execEnbw (k : BitVec 4) (s : State) : Host.Outcome State Fault Refusal :=
  enableAndWait k s

/-- DSBL: R277. -/
def execDsbl (k : BitVec 4) (s : State) : Host.Outcome State Fault Refusal :=
  disableLevels k s

/-- DSBW: R279, R280. -/
def execDsbw (k : BitVec 4) (s : State) : Host.Outcome State Fault Refusal :=
  disableAndWait k s

/-- STSM: its two rows, absolute and relative address (R282, R274). -/
def execStsm (md : AddrMode) (d : BitVec 8) (s : State) : Host.Outcome State Fault Refusal :=
  storeStatus md d s

/-- REGM: its two rows, absolute and relative address (R283, R274). -/
def execRegm (md : AddrMode) (d : BitVec 8) (s : State) : Host.Outcome State Fault Refusal :=
  storeRegisters md d s

/-- RETN: its two rows, absolute and relative address (R284, R274). -/
def execRetn (md : AddrMode) (d : BitVec 8) (s : State) : Host.Outcome State Fault Refusal :=
  returnFromInterrupt md d s

/-- MSTS: its two rows, absolute and relative address (R285, R274). -/
def execMsts (md : AddrMode) (d : BitVec 8) (s : State) : Host.Outcome State Fault Refusal :=
  loadStatus md d s

/-- MREG: its two rows, absolute and relative address (R286, R274). -/
def execMreg (md : AddrMode) (d : BitVec 8) (s : State) : Host.Outcome State Fault Refusal :=
  loadRegisters md d s

/-- FCLW: R290, R292. -/
def execFclw (ar : Reg) (m : MemOp) (s : State) : Host.Outcome State Fault Refusal :=
  fetchAndClear .word ar m s

/-- FCLB: R291, R292. -/
def execFclb (ar : Reg) (m : MemOp) (s : State) : Host.Outcome State Fault Refusal :=
  fetchAndClear .byte ar m s

/-- SKEY: R295. -/
def execSkey (k : BitVec 2) (s : State) : Host.Outcome State Fault Refusal :=
  storeKey k s

/-- JKEY: R296. -/
def execJkey (k : BitVec 2) (target : Word) (s : State) : Host.Outcome State Fault Refusal :=
  jumpKey k target s

/-- LCPU: R297. -/
def execLcpu (xr : Reg) (s : State) : Host.Outcome State Fault Refusal :=
  loadCpuNumber xr s

/-- LKEY: R298. -/
def execLkey (xr : Reg) (s : State) : Host.Outcome State Fault Refusal :=
  loadKey xr s

/-- HALT: R271; the low byte is ignored (R123). -/
def execHalt (s : State) : Host.Outcome State Fault Refusal :=
  haltProcessor s

/-- WAIT: the ENBW word with K = 0 (R281, R280). -/
def execWaitE (s : State) : Host.Outcome State Fault Refusal :=
  waitForInterrupt (interruptCode 4 0) (fun st => st) s

/-- WAIT: the DSBW word with K = 0 (R281, R280). -/
def execWaitD (s : State) : Host.Outcome State Fault Refusal :=
  waitForInterrupt (interruptCode 12 0) (fun st => st) s

end Sys2Proof.Machine
end

