-- ==== Sys2Proof/Machine/Decimal.lean ====
section
/-! DEFINITION. The decimal and character instructions of the 1111 models, class C (`45_decimal_1111.md`). Bytes, nibbles and
digits of a field are listed from its right end: the sign nibble first, then the units digit. -/

namespace Sys2Proof.Machine

/-! ## Operand values (R323) -/

/-- A field: the address of its leftmost byte and its length. -/
structure Field where
  addr : Word
  len  : Nat
  deriving DecidableEq, Repr

/-- A length or count: a four-bit field and an index register, 0 for none (R321). -/
def fieldCount (l : BitVec 4) (x : Reg) (s : State) : Nat := l.toNat + (indexValue x s).toNat

/-- The source field, or the field that a shift acts on (R323). -/
def sourceField (reg1 : Reg) (o : DecOperands) (s : State) : Field :=
  { addr := s.reg reg1, len := fieldCount o.l1 o.x1 s + 1 }

/-- The destination field (R323). -/
def destField (reg2 : Reg) (o : DecOperands) (s : State) : Field :=
  { addr := s.reg reg2, len := fieldCount o.l2 o.x2 s + 1 }

/-- The address of byte i from the left, modulo 2^16 (R323). -/
def fieldByte (f : Field) (i : Nat) : Word := f.addr + BitVec.ofNat 16 i

/-- The address of byte k from the right. -/
def fieldByteRight (f : Field) (k : Nat) : Word := fieldByte f (f.len - 1 - k)

/-- All byte addresses of a field, from its right end. -/
def fieldBytes (f : Field) : List Word := (List.range f.len).map (fieldByteRight f)

/-- A field no longer than the address space (R323). -/
def fieldFits (f : Field) : Bool := decide (f.len ≤ 65536)

/-- The two fields have a byte in common. -/
def fieldsOverlap (f g : Field) : Bool :=
  decide ((g.addr - f.addr).toNat < f.len) || decide ((f.addr - g.addr).toNat < g.len)

/-! ## Nibbles and numbers (R325) -/

/-- The nibbles of bytes listed from the right. -/
def nibblesOf : List Byte → List (BitVec 4)
  | [] => []
  | b :: bs => b.extractLsb' 0 4 :: b.extractLsb' 4 4 :: nibblesOf bs

/-- The bytes of nibbles listed from the right. -/
def bytesOfNibbles : List (BitVec 4) → List Byte
  | lo :: hi :: rest => (hi ++ lo) :: bytesOfNibbles rest
  | _ => []

/-- The sign nibble of a field (R325). -/
def signNibble (bs : List Byte) : BitVec 4 := (nibblesOf bs).headD 0

/-- The digits of a field, units first (R325). -/
def digitsOf (bs : List Byte) : List (BitVec 4) := (nibblesOf bs).tail

/-- Digits, units first, as a number. -/
def digitsValue : List (BitVec 4) → Nat
  | [] => 0
  | d :: ds => d.toNat + 10 * digitsValue ds

/-- The n low decimal digits of a number, units first. -/
def decimalDigits : Nat → Nat → List (BitVec 4)
  | 0, _ => []
  | n + 1, v => BitVec.ofNat 4 (v % 10) :: decimalDigits n (v / 10)

/-- Valid decimal data (R325, R327). -/
def validDecimal (bs : List Byte) : Bool :=
  (digitsOf bs).all (fun d => decide (d.toNat ≤ 9)) && (signNibble bs == 0xC || signNibble bs == 0xD)

/-- `dec(field)` (R325). -/
def decimalValue (bs : List Byte) : Int :=
  if signNibble bs = 0xD then -(digitsValue (digitsOf bs) : Int) else (digitsValue (digitsOf bs) : Int)

/-- The nibbles of a sum or difference v in a destination of `len` bytes whose sign was `original` (R331, R332): truncated to
the digits that fit; the sign of a nonzero result truncated to zero is open (`choice`). -/
def sumNibbles (v : Int) (len : Nat) (original : BitVec 4) (choice : Bool) : List (BitVec 4) :=
  let m := v.natAbs % 10 ^ (2 * len - 1)
  let sign : BitVec 4 :=
    if v = 0 then original
    else if m = 0 then (if choice then 0xC else 0xD)
    else if 0 < v then 0xC else 0xD
  sign :: decimalDigits (2 * len - 1) m

/-- The digits of a field, units first, shifted right by n (R337). -/
def shiftedRight (n : Nat) (ds : List (BitVec 4)) : List (BitVec 4) :=
  (ds.drop n ++ List.replicate ds.length 0).take ds.length

/-- The digits of a field, units first, shifted left by n (R339). -/
def shiftedLeft (n : Nat) (ds : List (BitVec 4)) : List (BitVec 4) :=
  (List.replicate (min n ds.length) 0 ++ ds).take ds.length

/-! ## The shared operations -/

/-- The indicators that an operation writes (R328). -/
def decimalIndicators : DecimalOp → Word
  | .cmpd | .comp => 0x0003
  | .zadd | .addd | .subd | .sftr | .movr | .sftl | .movl => 0

/-- The three words of temporary storage (R324). -/
def temporaryWords (s : State) : List Word :=
  let t := blockBase s.par.cpuId .unimplemented
  [t, t + 2, t + 4]

/-- Registers 5, 6, 7 to the temporary storage (R324). -/
def saveRegisters (s : State) : Res Unit :=
  eachOf (fun (p : Reg × Word) s => busWrite .word p.2 (s.reg p.1) s) ([Reg.r5, .r6, .r7].zip (temporaryWords s)) s

/-- The bytes that MOVR can write: as many from the right end of the destination as the shorter field has (R338). -/
def movedRight (src dst : Field) : List Word := (List.range (min src.len dst.len)).map (fieldByteRight dst)

/-- The bytes that MOVL can write: as many from the left end of the destination as the shorter field has (R340). -/
def movedLeft (src dst : Field) : List Word := (List.range (min src.len dst.len)).map (fieldByte dst)

/-- The bytes that an operation can write which writes all of its destination. -/
def wholeField (_src dst : Field) : List Word := fieldBytes dst

/-- The bytes that a compare can write. -/
def noField (_src _dst : Field) : List Word := []

/-- What a decimal instruction that aborts may leave (R77, R343, R475): registers 5 to 7, the temporary storage and the bytes
of the destination that it can write hold open values, and after a compare EQ and GT. -/
def abortedDecimal (op : DecimalOp) (dest : List Word) (s : State) : State :=
  (((s.freeRegs [.r5, .r6, .r7]).freeBytes ((temporaryWords s).flatMap bytesOfWord)).freeBytes dest).freeStatus (decimalIndicators op)

/-- The bytes of a field, from the right end. -/
def readField (f : Field) (s : State) : Res (List Byte) :=
  collect (fun a s => (busRead .byte a s).bind fun v s => .ok (rightByte v) s) (fieldBytes f) s

/-- Bytes written to a field, from the right end. -/
def writeField (f : Field) (bs : List Byte) (s : State) : Res Unit :=
  eachOf (fun (p : Word × Byte) s => busWrite .byte p.1 (p.2.setWidth 16) s) ((fieldBytes f).zip bs) s

/-- Open values written to a field, from the right end (R327, R329). -/
def writeOpen (f : Field) (s : State) : Res Unit :=
  eachOf (fun a s => busWrite .byte a s.freeWord s.countFree) (fieldBytes f) s

/-- One byte of a field moved to another field. -/
def moveByte (dst src : Word) (s : State) : Res Unit :=
  (busRead .byte src s).bind fun v s => busWrite .byte dst v s

/-- A class C instruction (R321 to R324): a 1 in a bit that the second word shows as 0 traps (R122); R1 = 0, or R2 = 0 in the
two-field format, is refused, and so is a field longer than the address space; then the registers are saved and the
instruction acts on its two fields. `written` gives the destination bytes that it can write. -/
def decimal (op : DecimalOp) (twoFields : Bool) (written : Field → Field → List Word) (reg1 reg2 : Reg) (o : DecOperands)
    (body : Field → Field → State → Res Unit) (s : State) : Host.Outcome State Fault Refusal :=
  executeOn Model.isDecimal (decimalCode op reg1 reg2 o) (fun _ s =>
    let src := sourceField reg1 o s
    let dst := if twoFields then destField reg2 o s else src
    if o.bit7 || o.bit3 then .trap none s
    else if reg1 == .r0 || twoFields && reg2 == .r0 then .refuse .decimalRegisterZero
    else if !fieldFits src || !fieldFits dst then .refuse .decimalFieldTooLong
    else
      ((saveRegisters s).bind fun _ s => body src dst s).onAbort
        (abortedDecimal op (written src dst))) s

/-- ZADD: right end first, zeros beyond the source (R330). -/
def zeroAndAdd (reg1 reg2 : Reg) (o : DecOperands) (s : State) : Host.Outcome State Fault Refusal :=
  decimal .zadd true wholeField reg1 reg2 o (fun src dst s =>
    eachOf (fun k s =>
      if k < src.len then moveByte (fieldByteRight dst k) (fieldByteRight src k) s
      else busWrite .byte (fieldByteRight dst k) 0 s) (List.range dst.len) s) s

/-- ADDD and SUBD: the sum or difference of the fields to the destination; invalid data, and a partial overlap, leave open
values (R327, R329, R331, R332). DESIGN CHOICE: the spec gives no order of the byte accesses (R70); the whole source field is
read, then the whole destination field, then that field is written, each from its right end (assumption log 32). -/
def decimalSum (combine : Int → Int → Int) (src dst : Field) (s : State) : Res Unit :=
  (readField src s).bind fun sb s =>
  (readField dst s).bind fun db s =>
    if (fieldsOverlap src dst && src != dst) || !validDecimal sb || !validDecimal db then writeOpen dst s
    else
      let v := combine (decimalValue db) (decimalValue sb)
      writeField dst (bytesOfNibbles (sumNibbles v dst.len (signNibble db) s.freeBit)) s.countFree

/-- ADDD (R331). -/
def addDecimal (reg1 reg2 : Reg) (o : DecOperands) (s : State) : Host.Outcome State Fault Refusal :=
  decimal .addd true wholeField reg1 reg2 o (decimalSum fun d v => d + v) s

/-- SUBD (R332). -/
def subtractDecimal (reg1 reg2 : Reg) (o : DecOperands) (s : State) : Host.Outcome State Fault Refusal :=
  decimal .subd true wholeField reg1 reg2 o (decimalSum fun d v => d - v) s

/-- CMPD: EQ and GT of the numbers; invalid data leave them open (R327, R336). DESIGN CHOICE: the whole source field is read
before the destination field, each from its right end (R70 gives no order, assumption log 32). -/
def compareDecimal (reg1 reg2 : Reg) (o : DecOperands) (s : State) : Host.Outcome State Fault Refusal :=
  decimal .cmpd true noField reg1 reg2 o (fun src dst s =>
    (readField src s).bind fun sb s =>
    (readField dst s).bind fun db s =>
      .ok () (if !validDecimal sb || !validDecimal db then s.freeStatus 0x0003
        else s.setSt (setCompare s.st (decimalValue sb == decimalValue db)
          (decide (decimalValue db < decimalValue sb))))) s

/-- A decimal shift: the digits are replaced, the sign stays (R337, R339). DESIGN CHOICE: in both directions the whole field is
read from its right end and then written from its right end (R70 gives no order); with a shift count of 0, which the prose calls
"no operation", too, as the pseudocode has no exception for it (assumption log 32). -/
def decimalShift (op : DecimalOp) (shifted : Nat → List (BitVec 4) → List (BitVec 4)) (reg1 reg2 : Reg) (o : DecOperands)
    (s : State) : Host.Outcome State Fault Refusal :=
  decimal op false wholeField reg1 reg2 o (fun src _ s =>
    let n := fieldCount o.l2 o.x2 s
    (readField src s).bind fun bs s =>
      writeField src (bytesOfNibbles (signNibble bs :: shifted n (digitsOf bs))) s) s

/-- SFTR (R337). -/
def shiftDecimalRight (reg1 reg2 : Reg) (o : DecOperands) (s : State) : Host.Outcome State Fault Refusal :=
  decimalShift .sftr shiftedRight reg1 reg2 o s

/-- SFTL (R339). -/
def shiftDecimalLeft (reg1 reg2 : Reg) (o : DecOperands) (s : State) : Host.Outcome State Fault Refusal :=
  decimalShift .sftl shiftedLeft reg1 reg2 o s

/-- MOVR: byte by byte from the right end, as many as the shorter field has (R338). -/
def moveRight (reg1 reg2 : Reg) (o : DecOperands) (s : State) : Host.Outcome State Fault Refusal :=
  decimal .movr true movedRight reg1 reg2 o (fun src dst s =>
    eachOf (fun k s => moveByte (fieldByteRight dst k) (fieldByteRight src k) s) (List.range (min src.len dst.len)) s) s

/-- MOVL: byte by byte from the left end, as many as the shorter field has (R340). -/
def moveLeft (reg1 reg2 : Reg) (o : DecOperands) (s : State) : Host.Outcome State Fault Refusal :=
  decimal .movl true movedLeft reg1 reg2 o (fun src dst s =>
    eachOf (fun k s => moveByte (fieldByte dst k) (fieldByte src k) s) (List.range (min src.len dst.len)) s) s

/-- The byte k from the left of a field that is extended to the right with blanks, A0 (R341). -/
def paddedByte (f : Field) (k : Nat) (s : State) : Res Byte :=
  if k < f.len then (busRead .byte (fieldByte f k) s).bind fun v s => .ok (rightByte v) s else .ok 0xA0 s

/-- COMP's scan over byte numbers from the left: the first difference decides (R341). DESIGN CHOICE: of each pair the source byte
is read first (assumption log 32). -/
def compareScan (src dst : Field) : List Nat → State → Res Unit
  | [], s => .ok () (s.setSt (setCompare s.st true false))
  | k :: ks, s =>
    (paddedByte src k s).bind fun a s =>
    (paddedByte dst k s).bind fun b s =>
      if a = b then compareScan src dst ks s
      else .ok () (s.setSt (setCompare s.st false (decide (b.toNat < a.toNat))))

/-- COMP (R341). -/
def compareFields (reg1 reg2 : Reg) (o : DecOperands) (s : State) : Host.Outcome State Fault Refusal :=
  decimal .comp true noField reg1 reg2 o (fun src dst s => compareScan src dst (List.range (max src.len dst.len)) s) s

/-! ## The instructions -/

/-- ZADD: R330, R321 to R324. -/
def execZadd (reg1 : Reg) (reg2 : Reg) (o : DecOperands) (s : State) : Host.Outcome State Fault Refusal :=
  zeroAndAdd reg1 reg2 o s

/-- ADDD: R331, R321 to R324. -/
def execAddd (reg1 : Reg) (reg2 : Reg) (o : DecOperands) (s : State) : Host.Outcome State Fault Refusal :=
  addDecimal reg1 reg2 o s

/-- SUBD: R332, R321 to R324. -/
def execSubd (reg1 : Reg) (reg2 : Reg) (o : DecOperands) (s : State) : Host.Outcome State Fault Refusal :=
  subtractDecimal reg1 reg2 o s

/-- CMPD: R336, R321 to R324. -/
def execCmpd (reg1 : Reg) (reg2 : Reg) (o : DecOperands) (s : State) : Host.Outcome State Fault Refusal :=
  compareDecimal reg1 reg2 o s

/-- SFTR: R337, R321 to R324. -/
def execSftr (reg1 : Reg) (reg2 : Reg) (o : DecOperands) (s : State) : Host.Outcome State Fault Refusal :=
  shiftDecimalRight reg1 reg2 o s

/-- MOVR: R338, R321 to R324. -/
def execMovr (reg1 : Reg) (reg2 : Reg) (o : DecOperands) (s : State) : Host.Outcome State Fault Refusal :=
  moveRight reg1 reg2 o s

/-- SFTL: R339, R321 to R324. -/
def execSftl (reg1 : Reg) (reg2 : Reg) (o : DecOperands) (s : State) : Host.Outcome State Fault Refusal :=
  shiftDecimalLeft reg1 reg2 o s

/-- MOVL: R340, R321 to R324. -/
def execMovl (reg1 : Reg) (reg2 : Reg) (o : DecOperands) (s : State) : Host.Outcome State Fault Refusal :=
  moveLeft reg1 reg2 o s

/-- COMP: R341, R321 to R324. -/
def execComp (reg1 : Reg) (reg2 : Reg) (o : DecOperands) (s : State) : Host.Outcome State Fault Refusal :=
  compareFields reg1 reg2 o s

end Sys2Proof.Machine
end

