-- ==== Sys2Proof/Machine/Shift.lean ====
section
/-! DEFINITION. The single-length shifts, class A (`43_shift.md`). -/

namespace Sys2Proof.Machine

/-! ## The shared operations -/

/-- What the one-bit steps of a shift work on: the register, CY and OV (R243). -/
structure Shifting where
  a  : Word
  cy : Bool
  ov : Bool
  deriving DecidableEq, Repr

/-- The one-bit step of each shift (R245 to R252). -/
def shiftStep (op : ShiftOp) (x : Shifting) : Shifting :=
  let apart := x.a.getLsbD 14 != x.a.getLsbD 15
  match op with
  | .lao => { a := x.a <<< 1, cy := x.a.getLsbD 15, ov := x.ov || apart }
  | .lll => { a := x.a <<< 1 ||| (BitVec.ofBool x.cy).setWidth 16, cy := x.a.getLsbD 15, ov := x.ov || apart }
  | .llo => { x with a := x.a <<< 1 }
  | .llc => { x with a := x.a.rotateLeft 1 }
  | .rao => { x with a := x.a.sshiftRight 1 }
  | .rll => { x with a := x.a >>> 1 ||| (BitVec.ofBool x.cy).setWidth 16 <<< 15, cy := x.a.getLsbD 0 }
  | .rlo => { x with a := x.a >>> 1 }
  | .rlc => { x with a := x.a.rotateRight 1 }

/-- N one-bit steps (R243). -/
def shiftTimes (op : ShiftOp) : Nat → Shifting → Shifting
  | 0, x => x
  | n + 1, x => shiftTimes op n (shiftStep op x)

/-- The status word after a shift: CY and OV as the steps left them, SRAO resets CY whatever the count, then NG, ZE, OD
(R243, R244, R249). -/
def shiftStatus (op : ShiftOp) (x : Shifting) (st : Word) : Word :=
  let cy := match op with
    | .rao => false
    | .lao | .lll | .llo | .llc | .rll | .rlo | .rlc => x.cy
  setNZO (putFlag (putFlag st .cy cy) .ov x.ov) x.a

/-- The accumulator shifted by a count (R243). DESIGN CHOICE, assumption log 35: AR = 0 writes the program counter with its
value as data for N = 0 too (R253), where R244's unchanged register could also mean that it goes on to NEXT. -/
def shiftBy (c : Ctx) (op : ShiftOp) (ar : Reg) (n : Nat) (s : State) : State :=
  let (a, s) := dataReg c ar s
  let x := shiftTimes op n { a := a, cy := flag s.st .cy, ov := flag s.st .ov }
  (s.setSt (shiftStatus op x s.st)).setReg ar x.a

/-- A shift with its count in the low four bits of a register (R240, R241). -/
def shiftX (op : ShiftOp) (ar xr : Reg) (s : State) : Host.Outcome State Fault Refusal :=
  execute (shiftXCode false op ar xr) (fun c s =>
    let (count, s) := dataReg c xr s
    .ok () (shiftBy c op ar (count.extractLsb' 0 4).toNat s)) s

/-- A shift with the count K (R240, R241). -/
def shiftK (op : ShiftOp) (ar : Reg) (k : BitVec 4) (s : State) : Host.Outcome State Fault Refusal :=
  execute (shiftKCode op ar k) (fun c s => .ok () (shiftBy c op ar k.toNat s)) s

/-! ## The instructions -/

/-- SLAO: count in a register (R245, R240, R241). -/
def execSlaoX (ar : Reg) (xr : Reg) (s : State) : Host.Outcome State Fault Refusal :=
  shiftX .lao ar xr s

/-- SLAO: count K (R245, R240, R241). -/
def execSlaoK (ar : Reg) (k : BitVec 4) (s : State) : Host.Outcome State Fault Refusal :=
  shiftK .lao ar k s

/-- SLLL: count in a register (R246, R240, R241). -/
def execSlllX (ar : Reg) (xr : Reg) (s : State) : Host.Outcome State Fault Refusal :=
  shiftX .lll ar xr s

/-- SLLL: count K (R246, R240, R241). -/
def execSlllK (ar : Reg) (k : BitVec 4) (s : State) : Host.Outcome State Fault Refusal :=
  shiftK .lll ar k s

/-- SLLO: count in a register (R247, R240, R241). -/
def execSlloX (ar : Reg) (xr : Reg) (s : State) : Host.Outcome State Fault Refusal :=
  shiftX .llo ar xr s

/-- SLLO: count K (R247, R240, R241). -/
def execSlloK (ar : Reg) (k : BitVec 4) (s : State) : Host.Outcome State Fault Refusal :=
  shiftK .llo ar k s

/-- SLLC: count in a register (R248, R240, R241). -/
def execSllcX (ar : Reg) (xr : Reg) (s : State) : Host.Outcome State Fault Refusal :=
  shiftX .llc ar xr s

/-- SLLC: count K (R248, R240, R241). -/
def execSllcK (ar : Reg) (k : BitVec 4) (s : State) : Host.Outcome State Fault Refusal :=
  shiftK .llc ar k s

/-- SRAO: count in a register (R249, R240, R241). -/
def execSraoX (ar : Reg) (xr : Reg) (s : State) : Host.Outcome State Fault Refusal :=
  shiftX .rao ar xr s

/-- SRAO: count K (R249, R240, R241). -/
def execSraoK (ar : Reg) (k : BitVec 4) (s : State) : Host.Outcome State Fault Refusal :=
  shiftK .rao ar k s

/-- SRLL: count in a register (R250, R240, R241). -/
def execSrllX (ar : Reg) (xr : Reg) (s : State) : Host.Outcome State Fault Refusal :=
  shiftX .rll ar xr s

/-- SRLL: count K (R250, R240, R241). -/
def execSrllK (ar : Reg) (k : BitVec 4) (s : State) : Host.Outcome State Fault Refusal :=
  shiftK .rll ar k s

/-- SRLO: count in a register (R251, R240, R241). -/
def execSrloX (ar : Reg) (xr : Reg) (s : State) : Host.Outcome State Fault Refusal :=
  shiftX .rlo ar xr s

/-- SRLO: count K (R251, R240, R241). -/
def execSrloK (ar : Reg) (k : BitVec 4) (s : State) : Host.Outcome State Fault Refusal :=
  shiftK .rlo ar k s

/-- SRLC: count in a register (R252, R240, R241). -/
def execSrlcX (ar : Reg) (xr : Reg) (s : State) : Host.Outcome State Fault Refusal :=
  shiftX .rlc ar xr s

/-- SRLC: count K (R252, R240, R241). -/
def execSrlcK (ar : Reg) (k : BitVec 4) (s : State) : Host.Outcome State Fault Refusal :=
  shiftK .rlc ar k s

end Sys2Proof.Machine
end

