-- ==== Sys2Proof/Machine/DoubleShift.lean ====
section
/-! DEFINITION. Normalize-and-count and the double-length shifts of the 1112 models, class A
(`47_normalize_dshift_1112.md`). -/

namespace Sys2Proof.Machine

/-! ## Normalize: the shared operations -/

/-- A double-length operand: h the even register, l the odd one. -/
structure DoubleWord where
  h : Word
  l : Word
  deriving DecidableEq, Repr

/-- `fixS'`: bit 15 of the low word is the sign of the high word, or 0 when the low word's other bits are (R50). -/
def fixSign (x : DoubleWord) : DoubleWord :=
  { x with l := BitVec.ofBool (x.h.getLsbD 15 && x.l.extractLsb' 0 15 != 0) ++ x.l.extractLsb' 0 15 }

/-- A single normalize has nothing left to shift (R393 to R396). -/
def normalizeStop (op : NormOp) (a : Word) : Bool :=
  match op with
  | .la => a.getLsbD 15 != a.getLsbD 14
  | .ll => a.getLsbD 15
  | .ra | .rl => a.getLsbD 0

/-- The one-bit step of a single normalize (R393 to R396). -/
def normalizeStep (op : NormOp) (a : Word) : Word :=
  match op with
  | .la | .ll => a <<< 1
  | .ra => a.sshiftRight 1
  | .rl => a >>> 1

/-- Steps until the stop condition holds or the limit is reached; the answer is the value and the number of steps (R391). -/
def normalizeLoop {α : Type} (stop : α → Bool) (step : α → α) : Nat → α → Nat → α × Nat
  | 0, x, n => (x, n)
  | fuel + 1, x, n => if stop x then (x, n) else normalizeLoop stop step fuel (step x) (n + 1)

/-- The shift count added to XR after the shifted value is written (R391, R392): XR = AR (`written`) adds to the value just
written, XR = 0 to the program counter as data; a count of 0 leaves XR unchanged. -/
def addCount (c : Ctx) (xr : Reg) (written : Bool) (n : Nat) (s : State) : State :=
  if n = 0 then s
  else if written then s.setReg xr (s.reg xr + BitVec.ofNat 16 n)
  else
    let (v, s) := dataReg c xr s
    s.setReg xr (v + BitVec.ofNat 16 n)

/-- A single-length normalize (R391, R393 to R396). DESIGN CHOICE, assumption log 35: register 0 already normalized is written
too. -/
def normalizeSingle (op : NormOp) (ar xr : Reg) (s : State) : Host.Outcome State Fault Refusal :=
  executeOn Model.isScientific (normalizeCode false op ar xr) (fun c s =>
    let (a, s) := dataReg c ar s
    if a = 0 then .ok () (s.setSt (setNZO s.st a))
    else
      let (r, n) := normalizeLoop (normalizeStop op) (normalizeStep op) 15 a 0
      let s := (s.setSt (setNZO s.st r)).setReg ar r
      .ok () (addCount c xr (xr == ar) n s)) s

/-- The zero test of a double normalize: the arithmetic ones ignore bit 15 of the low word (R397 to R400). -/
def normalizeZero (op : NormOp) (x : DoubleWord) : Bool :=
  match op with
  | .la | .ra => x.h == 0 && x.l.extractLsb' 0 15 == 0
  | .ll | .rl => x.h == 0 && x.l == 0

/-- A double normalize has nothing left to shift (R397 to R400). -/
def normalizeStop2 (op : NormOp) (x : DoubleWord) : Bool :=
  match op with
  | .la => x.h.getLsbD 15 != x.h.getLsbD 14
  | .ll => x.h.getLsbD 15
  | .ra | .rl => x.l.getLsbD 0

/-- The 31-bit quantity h ++ l[14:0] moved left by one, bit 15 of the low word untouched (R397, R408). -/
def arithLeft (x : DoubleWord) : DoubleWord :=
  { h := x.h.extractLsb' 0 15 ++ BitVec.ofBool (x.l.getLsbD 14)
    l := BitVec.ofBool (x.l.getLsbD 15) ++ x.l.extractLsb' 0 14 ++ 0#1 }

/-- The 31-bit quantity h ++ l[14:0] moved right by one with its sign kept, bit 15 of the low word untouched (R399, R412). -/
def arithRight (x : DoubleWord) : DoubleWord :=
  { h := x.h.sshiftRight 1
    l := BitVec.ofBool (x.l.getLsbD 15) ++ BitVec.ofBool (x.h.getLsbD 0) ++ x.l.extractLsb' 1 14 }

/-- The 32 bits h ++ l moved left by one, a bit entering at the right (R398, R409 to R411). -/
def logicLeft (x : DoubleWord) (b : Bool) : DoubleWord :=
  { h := x.h.extractLsb' 0 15 ++ BitVec.ofBool (x.l.getLsbD 15), l := x.l.extractLsb' 0 15 ++ BitVec.ofBool b }

/-- The 32 bits h ++ l moved right by one, a bit entering at the left (R400, R413 to R415). -/
def logicRight (x : DoubleWord) (b : Bool) : DoubleWord :=
  { h := BitVec.ofBool b ++ x.h.extractLsb' 1 15, l := BitVec.ofBool (x.h.getLsbD 0) ++ x.l.extractLsb' 1 15 }

/-- The one-bit step of a double normalize (R397 to R400). -/
def normalizeStep2 (op : NormOp) (x : DoubleWord) : DoubleWord :=
  match op with
  | .la => arithLeft x
  | .ll => logicLeft x false
  | .ra => arithRight x
  | .rl => logicRight x false

/-- The last step of a double normalize: the arithmetic ones adjust S' (R50, R397 to R400). -/
def normalizeFinish (op : NormOp) (x : DoubleWord) : DoubleWord :=
  match op with
  | .la | .ra => fixSign x
  | .ll | .rl => x

/-- The pair of a register (R24). -/
def pairOf (ar : Reg) (s : State) : DoubleWord := { h := s.reg (pairHigh ar), l := s.reg (pairLow ar) }

/-- The pair of a register written (R24). -/
def setPair (ar : Reg) (x : DoubleWord) (s : State) : State := (s.setReg (pairHigh ar) x.h).setReg (pairLow ar) x.l

/-- A pair written with NG, ZE, OD of both words (R51). -/
def setPairNZO (ar : Reg) (x : DoubleWord) (s : State) : State :=
  setPair ar x (s.setSt (setNZO2 s.st x.h x.l))

/-- A double-length instruction acts on a pair; another designator is refused (R405). -/
def onPair (ar : Reg) (body : State → Res Unit) (s : State) : Res Unit :=
  if isPair ar then body s else .refuse .pairDesignator

/-- A double-length normalize (R391, R392, R397 to R400). -/
def normalizeDouble (op : NormOp) (ar xr : Reg) (s : State) : Host.Outcome State Fault Refusal :=
  executeOn Model.isScientific (normalizeCode true op ar xr) (fun c =>
    onPair ar fun s =>
      let x := pairOf ar s
      if normalizeZero op x then .ok () (setPairNZO ar (normalizeFinish op x) s)
      else
        let (r, n) := normalizeLoop (normalizeStop2 op) (normalizeStep2 op) 31 x 0
        .ok () (addCount c xr false n (setPairNZO ar (normalizeFinish op r) s))) s

/-! ## Double shifts: the shared operations -/

/-- What the one-bit steps of a double shift work on (R407). -/
structure DoubleShifting where
  x  : DoubleWord
  cy : Bool
  ov : Bool
  deriving DecidableEq, Repr

/-- The one-bit step of each double shift (R408 to R415). -/
def doubleShiftStep (op : ShiftOp) (y : DoubleShifting) : DoubleShifting :=
  match op with
  | .lao =>
    { x := arithLeft y.x, cy := y.x.h.getLsbD 15, ov := y.ov || y.x.h.getLsbD 14 != y.x.h.getLsbD 15 }
  | .lll => { y with x := logicLeft y.x y.cy, cy := y.x.h.getLsbD 15 }
  | .llo => { y with x := logicLeft y.x false }
  | .llc => { y with x := logicLeft y.x (y.x.h.getLsbD 15) }
  | .rao => { y with x := arithRight y.x }
  | .rll => { y with x := logicRight y.x y.cy, cy := y.x.l.getLsbD 0 }
  | .rlo => { y with x := logicRight y.x false }
  | .rlc => { y with x := logicRight y.x (y.x.l.getLsbD 0) }

/-- N one-bit steps (R407). -/
def doubleShiftTimes (op : ShiftOp) : Nat → DoubleShifting → DoubleShifting
  | 0, y => y
  | n + 1, y => doubleShiftTimes op n (doubleShiftStep op y)

/-- After N steps the arithmetic shifts adjust S', but not for N = 0 (R407, D7). -/
def doubleShiftFinish (op : ShiftOp) (n : Nat) (x : DoubleWord) : DoubleWord :=
  match op with
  | .lao | .rao => if n = 0 then x else fixSign x
  | .lll | .llo | .llc | .rll | .rlo | .rlc => x

/-- A pair shifted by a count (R407). -/
def doubleShiftBy (op : ShiftOp) (ar : Reg) (n : Nat) (s : State) : State :=
  let y := doubleShiftTimes op n { x := pairOf ar s, cy := flag s.st .cy, ov := flag s.st .ov }
  setPairNZO ar (doubleShiftFinish op n y.x) (s.setSt (putFlag (putFlag s.st .cy y.cy) .ov y.ov))

/-- A double shift with its count in the low five bits of a register (R405, R406). -/
def doubleShiftX (op : ShiftOp) (ar xr : Reg) (s : State) : Host.Outcome State Fault Refusal :=
  executeOn Model.isScientific (shiftXCode true op ar xr) (fun c =>
    onPair ar fun s =>
      let (count, s) := dataReg c xr s
      .ok () (doubleShiftBy op ar (count.extractLsb' 0 5).toNat s)) s

/-- A double shift with the count K (R405, R406). -/
def doubleShiftK (op : ShiftOp) (pair : BitVec 2) (k : BitVec 5) (s : State) : Host.Outcome State Fault Refusal :=
  executeOn Model.isScientific (doubleShiftKCode op pair k) (fun _ =>
    onPair (pairReg pair) fun s => .ok () (doubleShiftBy op (pairReg pair) k.toNat s)) s

/-! ## The instructions -/

/-- SLAN: single length (R393, R391). -/
def execSlan (ar : Reg) (xr : Reg) (s : State) : Host.Outcome State Fault Refusal :=
  normalizeSingle .la ar xr s

/-- SLLN: single length (R394, R391). -/
def execSlln (ar : Reg) (xr : Reg) (s : State) : Host.Outcome State Fault Refusal :=
  normalizeSingle .ll ar xr s

/-- SRAN: single length (R395, R391). -/
def execSran (ar : Reg) (xr : Reg) (s : State) : Host.Outcome State Fault Refusal :=
  normalizeSingle .ra ar xr s

/-- SRLN: single length (R396, R391). -/
def execSrln (ar : Reg) (xr : Reg) (s : State) : Host.Outcome State Fault Refusal :=
  normalizeSingle .rl ar xr s

/-- DLAN: double length (R397, R391). -/
def execDlan (ar : Reg) (xr : Reg) (s : State) : Host.Outcome State Fault Refusal :=
  normalizeDouble .la ar xr s

/-- DLLN: double length (R398, R391). -/
def execDlln (ar : Reg) (xr : Reg) (s : State) : Host.Outcome State Fault Refusal :=
  normalizeDouble .ll ar xr s

/-- DRAN: double length (R399, R391). -/
def execDran (ar : Reg) (xr : Reg) (s : State) : Host.Outcome State Fault Refusal :=
  normalizeDouble .ra ar xr s

/-- DRLN: double length (R400, R391). -/
def execDrln (ar : Reg) (xr : Reg) (s : State) : Host.Outcome State Fault Refusal :=
  normalizeDouble .rl ar xr s

/-- DLAO: count in a register (R408, R405, R406). -/
def execDlaoX (ar : Reg) (xr : Reg) (s : State) : Host.Outcome State Fault Refusal :=
  doubleShiftX .lao ar xr s

/-- DLAO: count K (R408, R405, R406). -/
def execDlaoK (pair : BitVec 2) (k : BitVec 5) (s : State) : Host.Outcome State Fault Refusal :=
  doubleShiftK .lao pair k s

/-- DLLL: count in a register (R409, R405, R406). -/
def execDlllX (ar : Reg) (xr : Reg) (s : State) : Host.Outcome State Fault Refusal :=
  doubleShiftX .lll ar xr s

/-- DLLL: count K (R409, R405, R406). -/
def execDlllK (pair : BitVec 2) (k : BitVec 5) (s : State) : Host.Outcome State Fault Refusal :=
  doubleShiftK .lll pair k s

/-- DLLO: count in a register (R410, R405, R406). -/
def execDlloX (ar : Reg) (xr : Reg) (s : State) : Host.Outcome State Fault Refusal :=
  doubleShiftX .llo ar xr s

/-- DLLO: count K (R410, R405, R406). -/
def execDlloK (pair : BitVec 2) (k : BitVec 5) (s : State) : Host.Outcome State Fault Refusal :=
  doubleShiftK .llo pair k s

/-- DLLC: count in a register (R411, R405, R406). -/
def execDllcX (ar : Reg) (xr : Reg) (s : State) : Host.Outcome State Fault Refusal :=
  doubleShiftX .llc ar xr s

/-- DLLC: count K (R411, R405, R406). -/
def execDllcK (pair : BitVec 2) (k : BitVec 5) (s : State) : Host.Outcome State Fault Refusal :=
  doubleShiftK .llc pair k s

/-- DRAO: count in a register (R412, R405, R406). -/
def execDraoX (ar : Reg) (xr : Reg) (s : State) : Host.Outcome State Fault Refusal :=
  doubleShiftX .rao ar xr s

/-- DRAO: count K (R412, R405, R406). -/
def execDraoK (pair : BitVec 2) (k : BitVec 5) (s : State) : Host.Outcome State Fault Refusal :=
  doubleShiftK .rao pair k s

/-- DRLL: count in a register (R413, R405, R406). -/
def execDrllX (ar : Reg) (xr : Reg) (s : State) : Host.Outcome State Fault Refusal :=
  doubleShiftX .rll ar xr s

/-- DRLL: count K (R413, R405, R406). -/
def execDrllK (pair : BitVec 2) (k : BitVec 5) (s : State) : Host.Outcome State Fault Refusal :=
  doubleShiftK .rll pair k s

/-- DRLO: count in a register (R414, R405, R406). -/
def execDrloX (ar : Reg) (xr : Reg) (s : State) : Host.Outcome State Fault Refusal :=
  doubleShiftX .rlo ar xr s

/-- DRLO: count K (R414, R405, R406). -/
def execDrloK (pair : BitVec 2) (k : BitVec 5) (s : State) : Host.Outcome State Fault Refusal :=
  doubleShiftK .rlo pair k s

/-- DRLC: count in a register (R415, R405, R406). -/
def execDrlcX (ar : Reg) (xr : Reg) (s : State) : Host.Outcome State Fault Refusal :=
  doubleShiftX .rlc ar xr s

/-- DRLC: count K (R415, R405, R406). -/
def execDrlcK (pair : BitVec 2) (k : BitVec 5) (s : State) : Host.Outcome State Fault Refusal :=
  doubleShiftK .rlc pair k s

end Sys2Proof.Machine
end

