-- ==== Sys2Proof/Machine/FixedPoint.lean ====
section
/-! DEFINITION. The fixed-point and double-precision instructions of the 1112 models, class B (`48_fixed_point_1112.md`). -/

namespace Sys2Proof.Machine

/-! ## The double format -/

/-- `dval(h, l)` (R51). -/
def dval (x : DoubleWord) : Int := x.h.toInt * 32768 + (x.l.extractLsb' 0 15).toNat

/-- The pair of `dhi(n)` and `dlow(n)` (R51): the words of n modulo 2^31, S' adjusted. -/
def doubleOf (n : Int) : DoubleWord :=
  fixSign { h := BitVec.ofInt 16 (n / 32768), l := BitVec.ofInt 16 (n % 32768) }

/-- `dval mod 2^31`, the 31 significant bits as a number (R442). -/
def dbits (x : DoubleWord) : Nat := x.h.toNat * 32768 + (x.l.extractLsb' 0 15).toNat

/-- A multiplier or divisor: 8000 counts as 0 (R434). -/
def multiplier (v : Word) : Int := if v = 0x8000 then 0 else v.toInt

/-! ## The shared operations -/

/-- The register numbers of class B: AR = 0 and 1 trap (R431); only MULT takes an odd AR, which every other one refuses
(R431, D30). -/
def onAccumulator (ok : Reg → Bool) (ar : Reg) (m : MemOp) (body : State → Res Unit) (s : State) : Res Unit :=
  if ar = .r0 ∨ ar = .r1 ∨ noAddress m then .trap none s
  else if ok ar then body s
  else .refuse .pairDesignator

/-- The indicators that a class B operation writes (R435 to R437, R440 to R443); MLTA has an even AR. -/
def fixedIndicators (op : FixedOp) (ar : Reg) : Word :=
  match op with
  | .dsta | .dlod => 0x0700
  | .dadd | .dsub => 0x070C
  | .divd => 0x0704
  | .mult => if ar.isOdd then 0x0700 else 0x0708

/-- What a class B instruction that aborts may leave in its registers (R77, R445, R475): its indicators hold open values and, but
for DSTA, its pair. -/
def abortedFixed (op : FixedOp) (ar : Reg) (s : State) : State :=
  let s := s.freeStatus (fixedIndicators op ar)
  match op with
  | .dsta => s
  | .dsub | .dadd | .mult | .divd | .dlod => s.freeRegs [pairHigh ar, pairLow ar]

/-- A class B instruction on the effective address M (R431, R432). -/
def fixedPoint (op : FixedOp) (ok : Reg → Bool) (ar : Reg) (m : MemOp) (body : Word → State → Res Unit) (s : State) :
    Host.Outcome State Fault Refusal :=
  executeOn Model.isScientific (fixedCode op ar m) (fun c =>
    onAccumulator ok ar m fun s => ((effectiveAddress c .none .word m s).bind body).onAbort (abortedFixed op ar)) s

/-- The double-precision memory operand, most significant word first (R432). -/
def readDouble (a : Word) (s : State) : Res DoubleWord :=
  (busRead .word a s).bind fun h s => (busRead .word (a + 2) s).bind fun l s => .ok ⟨h, l⟩ s

/-- DSTA (R441). Once M is developed an abort opens the two words too (R475, assumption log 9). -/
def doubleStore (ar : Reg) (m : MemOp) (s : State) : Host.Outcome State Fault Refusal :=
  fixedPoint .dsta isPair ar m (fun a s =>
    let x := pairOf ar s
    ((busWrite .word a x.h s).bind fun _ s =>
      (busWrite .word (a + 2) x.l s).bind fun _ s =>
      .ok () (s.setSt (setNZO2 s.st x.h x.l))).onAbort
      fun s => s.freeBytes (bytesOfWord a ++ bytesOfWord (a + 2))) s

/-- DLOD (R440). -/
def doubleLoad (ar : Reg) (m : MemOp) (s : State) : Host.Outcome State Fault Refusal :=
  fixedPoint .dlod isPair ar m (fun a s =>
    (readDouble a s).bind fun x s => .ok () (setPairNZO ar x s)) s

/-- A sum or difference t of double-precision numbers with its carry: CY, OV, then the pair with NG, ZE, OD (R442, R443). -/
def doubleSum (ar : Reg) (t : Int) (carry : Bool) (s : State) : State :=
  let ov := decide (t < -(2 ^ 30)) || decide (2 ^ 30 ≤ t)
  setPairNZO ar (doubleOf t) (s.setSt (stickyOv (putFlag s.st .cy carry) ov))

/-- DADD (R442). -/
def doubleAdd (ar : Reg) (m : MemOp) (s : State) : Host.Outcome State Fault Refusal :=
  fixedPoint .dadd isPair ar m (fun a s =>
    (readDouble a s).bind fun y s =>
      let x := pairOf ar s
      .ok () (doubleSum ar (dval x + dval y) (decide (2 ^ 31 ≤ dbits x + dbits y)) s)) s

/-- DSUB (R443). -/
def doubleSubtract (ar : Reg) (m : MemOp) (s : State) : Host.Outcome State Fault Refusal :=
  fixedPoint .dsub isPair ar m (fun a s =>
    (readDouble a s).bind fun y s =>
      let x := pairOf ar s
      .ok () (doubleSum ar (dval x - dval y) (decide (2 ^ 31 ≤ dbits x + (2 ^ 31 - 1 - dbits y) + 1)) s)) s

/-- MULT: the odd register times the operand, to the pair (R435). -/
def multiply (ar : Reg) (m : MemOp) (s : State) : Host.Outcome State Fault Refusal :=
  fixedPoint .mult Reg.isOdd ar m (fun a s =>
    (busRead .word a s).bind fun v s =>
      .ok () (setPairNZO ar (doubleOf ((s.reg (pairLow ar)).toInt * multiplier v)) s)) s

/-- MLTA: as MULT plus the even register as a one-word number; CY is open (R436). -/
def multiplyAdd (ar : Reg) (m : MemOp) (s : State) : Host.Outcome State Fault Refusal :=
  fixedPoint .mult isPair ar m (fun a s =>
    (busRead .word a s).bind fun v s =>
      let x := pairOf ar s
      .ok () ((setPairNZO ar (doubleOf (x.l.toInt * multiplier v + x.h.toInt)) s).freeStatus Indicator.cy.mask)) s

/-- The divide check (R437): divisor 0 or 8000, dividend 8000 0000, or a quotient beyond 32767 in magnitude; whether a
quotient of exactly -32768 is one is open. -/
def divideCheck (x : DoubleWord) (d : Int) (open32768 : Bool) : Bool :=
  d == 0 || (x.h == 0x8000 && x.l.extractLsb' 0 15 == 0)
    || (if (dval x).tdiv d = -32768 then open32768 else decide (32767 < ((dval x).tdiv d).natAbs))

/-- DIVD on the pair and a divisor (R437): after a divide check OV is set and the pair and NG, ZE, OD are open. -/
def dividePair (ar : Reg) (v : Word) (s : State) : State :=
  let x := pairOf ar s
  let d := multiplier v
  let choice := s.freeBit
  let s := s.countFree
  if divideCheck x d choice then
    ((s.setSt (putFlag s.st .ov true)).freeRegs [pairHigh ar, pairLow ar]).freeStatus 0x0700
  else
    let q := BitVec.ofInt 16 ((dval x).tdiv d)
    setPair ar ⟨BitVec.ofInt 16 ((dval x).tmod d), q⟩ (s.setSt (setNZO s.st q))

/-- DIVD (R437). -/
def divide (ar : Reg) (m : MemOp) (s : State) : Host.Outcome State Fault Refusal :=
  fixedPoint .divd isPair ar m (fun a s =>
    (busRead .word a s).bind fun v s => .ok () (dividePair ar v s)) s

/-! ## The instructions -/

/-- DSTA: R441, R431, R432. -/
def execDsta (ar : Reg) (m : MemOp) (s : State) : Host.Outcome State Fault Refusal :=
  doubleStore ar m s

/-- DSUB: R443, R431, R432. -/
def execDsub (ar : Reg) (m : MemOp) (s : State) : Host.Outcome State Fault Refusal :=
  doubleSubtract ar m s

/-- DADD: R442, R431, R432. -/
def execDadd (ar : Reg) (m : MemOp) (s : State) : Host.Outcome State Fault Refusal :=
  doubleAdd ar m s

/-- DIVD: R437, R431, R432. -/
def execDivd (ar : Reg) (m : MemOp) (s : State) : Host.Outcome State Fault Refusal :=
  divide ar m s

/-- DLOD: R440, R431, R432. -/
def execDlod (ar : Reg) (m : MemOp) (s : State) : Host.Outcome State Fault Refusal :=
  doubleLoad ar m s

/-- MLTA: AR even (R436, R431, R432). -/
def execMlta (ar : Reg) (m : MemOp) (s : State) : Host.Outcome State Fault Refusal :=
  multiplyAdd ar m s

/-- MULT: AR odd (R435, R431, R432). -/
def execMult (ar : Reg) (m : MemOp) (s : State) : Host.Outcome State Fault Refusal :=
  multiply ar m s

end Sys2Proof.Machine
end

