-- ==== Sys2Proof/Machine/GeneralRegister.lean ====
section
/-! DEFINITION. The general register instructions, classes 1 to 7 (`41_general_register.md`). -/

namespace Sys2Proof.Machine

/-! ## The shared operations -/

/-- The accumulator read as an operand, after address development (R157, D16): register 0 gives `PC_OPERAND` (R193), or the
stepped program counter where this instruction has stepped it (R159). -/
def accumulator (c : Ctx) (auto : AutoStep) (ar xr : Reg) (s : State) : Word × State :=
  if auto != .none && xr == .r0 && ar == .r0 then (s.pc, s) else dataReg c ar s

/-- LP written when an instruction of class 1, 2, 5 or 6 completes, from the stepped register; it is open where the operation
has overwritten that register (R158). -/
def loopComplete (auto : AutoStep) (overwritten stepped : Bool) (s : State) : State :=
  match auto with
  | .none => s
  | .inc | .dec =>
    if overwritten then s.freeStatus Indicator.lp.mask else s.setSt (putFlag s.st .lp stepped)

/-- The operation with a register as its target: indicators, then the result (R170, R171). -/
def applyToReg (op : GrOp) (ar : Reg) (src tgt : Word) (s : State) : State :=
  let s := s.setSt (aluStatus op src tgt s.st)
  if storesResult op then s.setReg ar (aluResult op src tgt) else s

/-- The target operand of an operation on a register; MOV does not read it (R174, R193). -/
def targetOperand (c : Ctx) (op : GrOp) (auto : AutoStep) (ar xr : Reg) (s : State) : Word × State :=
  if readsTarget op then accumulator c auto ar xr s else (0, s)

/-- What a general register instruction that aborts may leave (R77, R475): its indicators and, in classes 1, 2, 5 and 6, LP and
the stepped register hold open values. An abort during address development, the fetch of the second word included, leaves the
accumulator as it was (R199). DESIGN CHOICE: with AR = XR it is the stepped register and is open (assumption log 33). -/
def abortedOperation (op : GrOp) (auto : AutoStep) (xr : Reg) (s : State) : State :=
  match auto with
  | .none => s.freeStatus (opIndicators op)
  | .inc | .dec => (s.freeStatus (opIndicators op ||| Indicator.lp.mask)).freeReg xr

/-- The accumulator that an aborted operation may leave: open where the operation stores its result (R475). -/
def abortedResult (op : GrOp) (ar : Reg) (s : State) : State :=
  if storesResult op then s.freeReg ar else s

/-- What a load may leave after an abort of its operand read: as `abortedOperation`, and the accumulator (R77, R475). A direct
class 7 load, whose operand read is its only transfer, leaves all as it was: vector A13 (assumption log 9). -/
def abortedOperandRead (cls : GrClass) (op : GrOp) (ar : Reg) (m : MemOp) (s : State) : State :=
  if cls = .load ∧ m.ind = false then s else abortedResult op ar (abortedOperation op (autoStep cls) m.xr s)

/-- What a literal form may leave after an abort of the fetch of its literal (R475): it develops no address (R161), so that the
accumulator is open too. -/
def abortedLiteral (op : GrOp) (ar : Reg) (s : State) : State := abortedResult op ar (abortedOperation op .none .r0 s)

/-- Classes 5, 6, 7: the memory operand operates on the accumulator (R172, R182 to R184). -/
def grLoad (cls : GrClass) (wd : Width) (op : GrOp) (ar : Reg) (m : MemOp) (s : State) :
    Host.Outcome State Fault Refusal :=
  execute (grCode cls wd op ar m) (fun c s =>
    ((effectiveAddress c (autoStep cls) wd m s).onAbort (abortedOperation op (autoStep cls) m.xr)).bind fun a s =>
    ((busRead wd a s).onAbort (abortedOperandRead cls op ar m)).bind fun src s =>
      let stepped := s.reg m.xr == 0
      let (tgt, s) := targetOperand c op (autoStep cls) ar m.xr s
      let s := applyToReg op ar src tgt s
      .ok () (loopComplete (autoStep cls) (storesResult op && ar == m.xr) stepped s)) s

/-- The indicators of an operation with memory as its target; for a byte operand they are open where the register's left byte
is not zero (R173). -/
def memoryStatus (op : GrOp) (wd : Width) (src tgt : Word) (s : State) : State :=
  match wd with
  | .word => s.setSt (aluStatus op src tgt s.st)
  | .byte =>
    if leftByte src == 0 then s.setSt (aluStatus op src tgt s.st) else s.freeStatus (opIndicators op)

/-- The operand transfers of an operation on memory: MOV does not read its target, CMP and TST do not write theirs (R72,
R185). The answer is the target operand. -/
def memoryTransfers (op : GrOp) (wd : Width) (a src : Word) (s : State) : Res Word :=
  if readsTarget op then
    (busRead wd a s).bind fun tgt s =>
      if storesResult op then (busWrite wd a (aluResult op src tgt) s).bind fun _ s => .ok tgt s else .ok tgt s
  else (busWrite wd a (aluResult op src 0) s).bind fun _ s => .ok 0 s

/-- Classes 1, 2, 3: the accumulator operates on the memory operand (R173, R185, R188, R189). Where a transfer fails, nothing
answers at the operand, so that of memory nothing is open. -/
def grStore (cls : GrClass) (wd : Width) (op : GrOp) (ar : Reg) (m : MemOp) (s : State) :
    Host.Outcome State Fault Refusal :=
  execute (grCode cls wd op ar m) (fun c s =>
    ((effectiveAddress c (autoStep cls) wd m s).bind fun a s =>
      let stepped := s.reg m.xr == 0
      let (src, s) := accumulator c (autoStep cls) ar m.xr s
      (memoryTransfers op wd a src s).bind fun tgt s =>
        .ok () (loopComplete (autoStep cls) false stepped (memoryStatus op wd src tgt s))).onAbort
      (abortedOperation op (autoStep cls) m.xr)) s

/-- JUMP: the program counter receives the effective address (R186). -/
def jumpTo (m : MemOp) (s : State) : Host.Outcome State Fault Refusal :=
  execute (jumpCode .r0 m) (fun c s =>
    (effectiveAddress c .none .word m s).bind fun a s => .ok () (s.setPc a)) s

/-- JSBR: the address is developed, then the accumulator receives NEXT and the program counter the address (R187). -/
def jumpLink (ar : Reg) (m : MemOp) (s : State) : Host.Outcome State Fault Refusal :=
  execute (jumpCode ar m) (fun c s =>
    (effectiveAddress c .none .word m s).bind fun a s => .ok () ((s.setReg ar c.next).setPc a)) s

/-- Class 4, register form: register XR operates on the accumulator; XR = 0 is the program counter as data (R190). -/
def accReg (op : GrOp) (ar xr : Reg) (s : State) : Host.Outcome State Fault Refusal :=
  execute (accRegCode op ar xr) (fun c s =>
    let (src, s) := dataReg c xr s
    let (tgt, s) := targetOperand c op .none ar xr s
    .ok () (applyToReg op ar src tgt s)) s

/-- Class 4, literal form: the second word, plus register XR where XR is not 0, operates on the accumulator (R191). -/
def accLit (op : GrOp) (ar xr : Reg) (lit : Word) (s : State) : Host.Outcome State Fault Refusal :=
  execute (accLitCode op ar xr lit) (fun c s =>
    let (tgt, s) := targetOperand c op .none ar xr s
    .ok () (applyToReg op ar (lit + indexValue xr s) tgt s)) s

/-- Class 4, immediate form: K with zeros above operates on the accumulator (R192). -/
def accImm (op : GrOp) (ar : Reg) (k : BitVec 4) (s : State) : Host.Outcome State Fault Refusal :=
  execute (accImmCode op ar k) (fun c s =>
    let (tgt, s) := targetOperand c op .none ar .r0 s
    .ok () (applyToReg op ar (k.setWidth 16) tgt s)) s

/-! ## The instructions -/

/-- MOVW: class 7, memory to accumulator, word (R174, R182). -/
def execMovwLoad (ar : Reg) (m : MemOp) (s : State) : Host.Outcome State Fault Refusal :=
  grLoad .load .word .mov ar m s

/-- SUBW: class 7, memory to accumulator, word (R175, R182). -/
def execSubwLoad (ar : Reg) (m : MemOp) (s : State) : Host.Outcome State Fault Refusal :=
  grLoad .load .word .sub ar m s

/-- ADDW: class 7, memory to accumulator, word (R176, R182). -/
def execAddwLoad (ar : Reg) (m : MemOp) (s : State) : Host.Outcome State Fault Refusal :=
  grLoad .load .word .add ar m s

/-- ANDW: class 7, memory to accumulator, word (R178, R182). -/
def execAndwLoad (ar : Reg) (m : MemOp) (s : State) : Host.Outcome State Fault Refusal :=
  grLoad .load .word .and ar m s

/-- IORW: class 7, memory to accumulator, word (R179, R182). -/
def execIorwLoad (ar : Reg) (m : MemOp) (s : State) : Host.Outcome State Fault Refusal :=
  grLoad .load .word .ior ar m s

/-- EORW: class 7, memory to accumulator, word (R180, R182). -/
def execEorwLoad (ar : Reg) (m : MemOp) (s : State) : Host.Outcome State Fault Refusal :=
  grLoad .load .word .eor ar m s

/-- CMPW: class 7, memory to accumulator, word (R177, R182). -/
def execCmpwLoad (ar : Reg) (m : MemOp) (s : State) : Host.Outcome State Fault Refusal :=
  grLoad .load .word .cmp ar m s

/-- TSTW: class 7, memory to accumulator, word (R181, R182). -/
def execTstwLoad (ar : Reg) (m : MemOp) (s : State) : Host.Outcome State Fault Refusal :=
  grLoad .load .word .tst ar m s

/-- MOVB: class 7, memory to accumulator, byte (R174, R182). -/
def execMovbLoad (ar : Reg) (m : MemOp) (s : State) : Host.Outcome State Fault Refusal :=
  grLoad .load .byte .mov ar m s

/-- SUBB: class 7, memory to accumulator, byte (R175, R182). -/
def execSubbLoad (ar : Reg) (m : MemOp) (s : State) : Host.Outcome State Fault Refusal :=
  grLoad .load .byte .sub ar m s

/-- ADDB: class 7, memory to accumulator, byte (R176, R182). -/
def execAddbLoad (ar : Reg) (m : MemOp) (s : State) : Host.Outcome State Fault Refusal :=
  grLoad .load .byte .add ar m s

/-- ANDB: class 7, memory to accumulator, byte (R178, R182). -/
def execAndbLoad (ar : Reg) (m : MemOp) (s : State) : Host.Outcome State Fault Refusal :=
  grLoad .load .byte .and ar m s

/-- IORB: class 7, memory to accumulator, byte (R179, R182). -/
def execIorbLoad (ar : Reg) (m : MemOp) (s : State) : Host.Outcome State Fault Refusal :=
  grLoad .load .byte .ior ar m s

/-- EORB: class 7, memory to accumulator, byte (R180, R182). -/
def execEorbLoad (ar : Reg) (m : MemOp) (s : State) : Host.Outcome State Fault Refusal :=
  grLoad .load .byte .eor ar m s

/-- CMPB: class 7, memory to accumulator, byte (R177, R182). -/
def execCmpbLoad (ar : Reg) (m : MemOp) (s : State) : Host.Outcome State Fault Refusal :=
  grLoad .load .byte .cmp ar m s

/-- TSTB: class 7, memory to accumulator, byte (R181, R182). -/
def execTstbLoad (ar : Reg) (m : MemOp) (s : State) : Host.Outcome State Fault Refusal :=
  grLoad .load .byte .tst ar m s

/-- MOVW: class 6, memory to accumulator, auto increment, word (R174, R183). -/
def execMovwLoadInc (ar : Reg) (m : MemOp) (s : State) : Host.Outcome State Fault Refusal :=
  grLoad .loadInc .word .mov ar m s

/-- SUBW: class 6, memory to accumulator, auto increment, word (R175, R183). -/
def execSubwLoadInc (ar : Reg) (m : MemOp) (s : State) : Host.Outcome State Fault Refusal :=
  grLoad .loadInc .word .sub ar m s

/-- ADDW: class 6, memory to accumulator, auto increment, word (R176, R183). -/
def execAddwLoadInc (ar : Reg) (m : MemOp) (s : State) : Host.Outcome State Fault Refusal :=
  grLoad .loadInc .word .add ar m s

/-- ANDW: class 6, memory to accumulator, auto increment, word (R178, R183). -/
def execAndwLoadInc (ar : Reg) (m : MemOp) (s : State) : Host.Outcome State Fault Refusal :=
  grLoad .loadInc .word .and ar m s

/-- IORW: class 6, memory to accumulator, auto increment, word (R179, R183). -/
def execIorwLoadInc (ar : Reg) (m : MemOp) (s : State) : Host.Outcome State Fault Refusal :=
  grLoad .loadInc .word .ior ar m s

/-- EORW: class 6, memory to accumulator, auto increment, word (R180, R183). -/
def execEorwLoadInc (ar : Reg) (m : MemOp) (s : State) : Host.Outcome State Fault Refusal :=
  grLoad .loadInc .word .eor ar m s

/-- CMPW: class 6, memory to accumulator, auto increment, word (R177, R183). -/
def execCmpwLoadInc (ar : Reg) (m : MemOp) (s : State) : Host.Outcome State Fault Refusal :=
  grLoad .loadInc .word .cmp ar m s

/-- TSTW: class 6, memory to accumulator, auto increment, word (R181, R183). -/
def execTstwLoadInc (ar : Reg) (m : MemOp) (s : State) : Host.Outcome State Fault Refusal :=
  grLoad .loadInc .word .tst ar m s

/-- MOVB: class 6, memory to accumulator, auto increment, byte (R174, R183). -/
def execMovbLoadInc (ar : Reg) (m : MemOp) (s : State) : Host.Outcome State Fault Refusal :=
  grLoad .loadInc .byte .mov ar m s

/-- SUBB: class 6, memory to accumulator, auto increment, byte (R175, R183). -/
def execSubbLoadInc (ar : Reg) (m : MemOp) (s : State) : Host.Outcome State Fault Refusal :=
  grLoad .loadInc .byte .sub ar m s

/-- ADDB: class 6, memory to accumulator, auto increment, byte (R176, R183). -/
def execAddbLoadInc (ar : Reg) (m : MemOp) (s : State) : Host.Outcome State Fault Refusal :=
  grLoad .loadInc .byte .add ar m s

/-- ANDB: class 6, memory to accumulator, auto increment, byte (R178, R183). -/
def execAndbLoadInc (ar : Reg) (m : MemOp) (s : State) : Host.Outcome State Fault Refusal :=
  grLoad .loadInc .byte .and ar m s

/-- IORB: class 6, memory to accumulator, auto increment, byte (R179, R183). -/
def execIorbLoadInc (ar : Reg) (m : MemOp) (s : State) : Host.Outcome State Fault Refusal :=
  grLoad .loadInc .byte .ior ar m s

/-- EORB: class 6, memory to accumulator, auto increment, byte (R180, R183). -/
def execEorbLoadInc (ar : Reg) (m : MemOp) (s : State) : Host.Outcome State Fault Refusal :=
  grLoad .loadInc .byte .eor ar m s

/-- CMPB: class 6, memory to accumulator, auto increment, byte (R177, R183). -/
def execCmpbLoadInc (ar : Reg) (m : MemOp) (s : State) : Host.Outcome State Fault Refusal :=
  grLoad .loadInc .byte .cmp ar m s

/-- TSTB: class 6, memory to accumulator, auto increment, byte (R181, R183). -/
def execTstbLoadInc (ar : Reg) (m : MemOp) (s : State) : Host.Outcome State Fault Refusal :=
  grLoad .loadInc .byte .tst ar m s

/-- MOVW: class 5, memory to accumulator, auto decrement, word (R174, R184). -/
def execMovwLoadDec (ar : Reg) (m : MemOp) (s : State) : Host.Outcome State Fault Refusal :=
  grLoad .loadDec .word .mov ar m s

/-- SUBW: class 5, memory to accumulator, auto decrement, word (R175, R184). -/
def execSubwLoadDec (ar : Reg) (m : MemOp) (s : State) : Host.Outcome State Fault Refusal :=
  grLoad .loadDec .word .sub ar m s

/-- ADDW: class 5, memory to accumulator, auto decrement, word (R176, R184). -/
def execAddwLoadDec (ar : Reg) (m : MemOp) (s : State) : Host.Outcome State Fault Refusal :=
  grLoad .loadDec .word .add ar m s

/-- ANDW: class 5, memory to accumulator, auto decrement, word (R178, R184). -/
def execAndwLoadDec (ar : Reg) (m : MemOp) (s : State) : Host.Outcome State Fault Refusal :=
  grLoad .loadDec .word .and ar m s

/-- IORW: class 5, memory to accumulator, auto decrement, word (R179, R184). -/
def execIorwLoadDec (ar : Reg) (m : MemOp) (s : State) : Host.Outcome State Fault Refusal :=
  grLoad .loadDec .word .ior ar m s

/-- EORW: class 5, memory to accumulator, auto decrement, word (R180, R184). -/
def execEorwLoadDec (ar : Reg) (m : MemOp) (s : State) : Host.Outcome State Fault Refusal :=
  grLoad .loadDec .word .eor ar m s

/-- CMPW: class 5, memory to accumulator, auto decrement, word (R177, R184). -/
def execCmpwLoadDec (ar : Reg) (m : MemOp) (s : State) : Host.Outcome State Fault Refusal :=
  grLoad .loadDec .word .cmp ar m s

/-- TSTW: class 5, memory to accumulator, auto decrement, word (R181, R184). -/
def execTstwLoadDec (ar : Reg) (m : MemOp) (s : State) : Host.Outcome State Fault Refusal :=
  grLoad .loadDec .word .tst ar m s

/-- MOVB: class 5, memory to accumulator, auto decrement, byte (R174, R184). -/
def execMovbLoadDec (ar : Reg) (m : MemOp) (s : State) : Host.Outcome State Fault Refusal :=
  grLoad .loadDec .byte .mov ar m s

/-- SUBB: class 5, memory to accumulator, auto decrement, byte (R175, R184). -/
def execSubbLoadDec (ar : Reg) (m : MemOp) (s : State) : Host.Outcome State Fault Refusal :=
  grLoad .loadDec .byte .sub ar m s

/-- ADDB: class 5, memory to accumulator, auto decrement, byte (R176, R184). -/
def execAddbLoadDec (ar : Reg) (m : MemOp) (s : State) : Host.Outcome State Fault Refusal :=
  grLoad .loadDec .byte .add ar m s

/-- ANDB: class 5, memory to accumulator, auto decrement, byte (R178, R184). -/
def execAndbLoadDec (ar : Reg) (m : MemOp) (s : State) : Host.Outcome State Fault Refusal :=
  grLoad .loadDec .byte .and ar m s

/-- IORB: class 5, memory to accumulator, auto decrement, byte (R179, R184). -/
def execIorbLoadDec (ar : Reg) (m : MemOp) (s : State) : Host.Outcome State Fault Refusal :=
  grLoad .loadDec .byte .ior ar m s

/-- EORB: class 5, memory to accumulator, auto decrement, byte (R180, R184). -/
def execEorbLoadDec (ar : Reg) (m : MemOp) (s : State) : Host.Outcome State Fault Refusal :=
  grLoad .loadDec .byte .eor ar m s

/-- CMPB: class 5, memory to accumulator, auto decrement, byte (R177, R184). -/
def execCmpbLoadDec (ar : Reg) (m : MemOp) (s : State) : Host.Outcome State Fault Refusal :=
  grLoad .loadDec .byte .cmp ar m s

/-- TSTB: class 5, memory to accumulator, auto decrement, byte (R181, R184). -/
def execTstbLoadDec (ar : Reg) (m : MemOp) (s : State) : Host.Outcome State Fault Refusal :=
  grLoad .loadDec .byte .tst ar m s

/-- MOVW: class 3, accumulator to memory, word (R174, R185). -/
def execMovwStore (ar : Reg) (m : MemOp) (s : State) : Host.Outcome State Fault Refusal :=
  grStore .store .word .mov ar m s

/-- SUBW: class 3, accumulator to memory, word (R175, R185). -/
def execSubwStore (ar : Reg) (m : MemOp) (s : State) : Host.Outcome State Fault Refusal :=
  grStore .store .word .sub ar m s

/-- ADDW: class 3, accumulator to memory, word (R176, R185). -/
def execAddwStore (ar : Reg) (m : MemOp) (s : State) : Host.Outcome State Fault Refusal :=
  grStore .store .word .add ar m s

/-- ANDW: class 3, accumulator to memory, word (R178, R185). -/
def execAndwStore (ar : Reg) (m : MemOp) (s : State) : Host.Outcome State Fault Refusal :=
  grStore .store .word .and ar m s

/-- IORW: class 3, accumulator to memory, word (R179, R185). -/
def execIorwStore (ar : Reg) (m : MemOp) (s : State) : Host.Outcome State Fault Refusal :=
  grStore .store .word .ior ar m s

/-- EORW: class 3, accumulator to memory, word (R180, R185). -/
def execEorwStore (ar : Reg) (m : MemOp) (s : State) : Host.Outcome State Fault Refusal :=
  grStore .store .word .eor ar m s

/-- CMPW: class 3, accumulator to memory, word (R177, R185). -/
def execCmpwStore (ar : Reg) (m : MemOp) (s : State) : Host.Outcome State Fault Refusal :=
  grStore .store .word .cmp ar m s

/-- TSTW: class 3, accumulator to memory, word (R181, R185). -/
def execTstwStore (ar : Reg) (m : MemOp) (s : State) : Host.Outcome State Fault Refusal :=
  grStore .store .word .tst ar m s

/-- MOVB: class 3, accumulator to memory, byte (R174, R185). -/
def execMovbStore (ar : Reg) (m : MemOp) (s : State) : Host.Outcome State Fault Refusal :=
  grStore .store .byte .mov ar m s

/-- SUBB: class 3, accumulator to memory, byte (R175, R185). -/
def execSubbStore (ar : Reg) (m : MemOp) (s : State) : Host.Outcome State Fault Refusal :=
  grStore .store .byte .sub ar m s

/-- ADDB: class 3, accumulator to memory, byte (R176, R185). -/
def execAddbStore (ar : Reg) (m : MemOp) (s : State) : Host.Outcome State Fault Refusal :=
  grStore .store .byte .add ar m s

/-- ANDB: class 3, accumulator to memory, byte (R178, R185). -/
def execAndbStore (ar : Reg) (m : MemOp) (s : State) : Host.Outcome State Fault Refusal :=
  grStore .store .byte .and ar m s

/-- IORB: class 3, accumulator to memory, byte (R179, R185). -/
def execIorbStore (ar : Reg) (m : MemOp) (s : State) : Host.Outcome State Fault Refusal :=
  grStore .store .byte .ior ar m s

/-- EORB: class 3, accumulator to memory, byte (R180, R185). -/
def execEorbStore (ar : Reg) (m : MemOp) (s : State) : Host.Outcome State Fault Refusal :=
  grStore .store .byte .eor ar m s

/-- CMPB: class 3, accumulator to memory, byte (R177, R185). -/
def execCmpbStore (ar : Reg) (m : MemOp) (s : State) : Host.Outcome State Fault Refusal :=
  grStore .store .byte .cmp ar m s

/-- TSTB: class 3, accumulator to memory, byte (R181, R185). -/
def execTstbStore (ar : Reg) (m : MemOp) (s : State) : Host.Outcome State Fault Refusal :=
  grStore .store .byte .tst ar m s

/-- MOVW: class 2, accumulator to memory, auto increment, word (R174, R188). -/
def execMovwStoreInc (ar : Reg) (m : MemOp) (s : State) : Host.Outcome State Fault Refusal :=
  grStore .storeInc .word .mov ar m s

/-- SUBW: class 2, accumulator to memory, auto increment, word (R175, R188). -/
def execSubwStoreInc (ar : Reg) (m : MemOp) (s : State) : Host.Outcome State Fault Refusal :=
  grStore .storeInc .word .sub ar m s

/-- ADDW: class 2, accumulator to memory, auto increment, word (R176, R188). -/
def execAddwStoreInc (ar : Reg) (m : MemOp) (s : State) : Host.Outcome State Fault Refusal :=
  grStore .storeInc .word .add ar m s

/-- ANDW: class 2, accumulator to memory, auto increment, word (R178, R188). -/
def execAndwStoreInc (ar : Reg) (m : MemOp) (s : State) : Host.Outcome State Fault Refusal :=
  grStore .storeInc .word .and ar m s

/-- IORW: class 2, accumulator to memory, auto increment, word (R179, R188). -/
def execIorwStoreInc (ar : Reg) (m : MemOp) (s : State) : Host.Outcome State Fault Refusal :=
  grStore .storeInc .word .ior ar m s

/-- EORW: class 2, accumulator to memory, auto increment, word (R180, R188). -/
def execEorwStoreInc (ar : Reg) (m : MemOp) (s : State) : Host.Outcome State Fault Refusal :=
  grStore .storeInc .word .eor ar m s

/-- CMPW: class 2, accumulator to memory, auto increment, word (R177, R188). -/
def execCmpwStoreInc (ar : Reg) (m : MemOp) (s : State) : Host.Outcome State Fault Refusal :=
  grStore .storeInc .word .cmp ar m s

/-- TSTW: class 2, accumulator to memory, auto increment, word (R181, R188). -/
def execTstwStoreInc (ar : Reg) (m : MemOp) (s : State) : Host.Outcome State Fault Refusal :=
  grStore .storeInc .word .tst ar m s

/-- MOVB: class 2, accumulator to memory, auto increment, byte (R174, R188). -/
def execMovbStoreInc (ar : Reg) (m : MemOp) (s : State) : Host.Outcome State Fault Refusal :=
  grStore .storeInc .byte .mov ar m s

/-- SUBB: class 2, accumulator to memory, auto increment, byte (R175, R188). -/
def execSubbStoreInc (ar : Reg) (m : MemOp) (s : State) : Host.Outcome State Fault Refusal :=
  grStore .storeInc .byte .sub ar m s

/-- ADDB: class 2, accumulator to memory, auto increment, byte (R176, R188). -/
def execAddbStoreInc (ar : Reg) (m : MemOp) (s : State) : Host.Outcome State Fault Refusal :=
  grStore .storeInc .byte .add ar m s

/-- ANDB: class 2, accumulator to memory, auto increment, byte (R178, R188). -/
def execAndbStoreInc (ar : Reg) (m : MemOp) (s : State) : Host.Outcome State Fault Refusal :=
  grStore .storeInc .byte .and ar m s

/-- IORB: class 2, accumulator to memory, auto increment, byte (R179, R188). -/
def execIorbStoreInc (ar : Reg) (m : MemOp) (s : State) : Host.Outcome State Fault Refusal :=
  grStore .storeInc .byte .ior ar m s

/-- EORB: class 2, accumulator to memory, auto increment, byte (R180, R188). -/
def execEorbStoreInc (ar : Reg) (m : MemOp) (s : State) : Host.Outcome State Fault Refusal :=
  grStore .storeInc .byte .eor ar m s

/-- CMPB: class 2, accumulator to memory, auto increment, byte (R177, R188). -/
def execCmpbStoreInc (ar : Reg) (m : MemOp) (s : State) : Host.Outcome State Fault Refusal :=
  grStore .storeInc .byte .cmp ar m s

/-- TSTB: class 2, accumulator to memory, auto increment, byte (R181, R188). -/
def execTstbStoreInc (ar : Reg) (m : MemOp) (s : State) : Host.Outcome State Fault Refusal :=
  grStore .storeInc .byte .tst ar m s

/-- MOVW: class 1, accumulator to memory, auto decrement, word (R174, R189). -/
def execMovwStoreDec (ar : Reg) (m : MemOp) (s : State) : Host.Outcome State Fault Refusal :=
  grStore .storeDec .word .mov ar m s

/-- SUBW: class 1, accumulator to memory, auto decrement, word (R175, R189). -/
def execSubwStoreDec (ar : Reg) (m : MemOp) (s : State) : Host.Outcome State Fault Refusal :=
  grStore .storeDec .word .sub ar m s

/-- ADDW: class 1, accumulator to memory, auto decrement, word (R176, R189). -/
def execAddwStoreDec (ar : Reg) (m : MemOp) (s : State) : Host.Outcome State Fault Refusal :=
  grStore .storeDec .word .add ar m s

/-- ANDW: class 1, accumulator to memory, auto decrement, word (R178, R189). -/
def execAndwStoreDec (ar : Reg) (m : MemOp) (s : State) : Host.Outcome State Fault Refusal :=
  grStore .storeDec .word .and ar m s

/-- IORW: class 1, accumulator to memory, auto decrement, word (R179, R189). -/
def execIorwStoreDec (ar : Reg) (m : MemOp) (s : State) : Host.Outcome State Fault Refusal :=
  grStore .storeDec .word .ior ar m s

/-- EORW: class 1, accumulator to memory, auto decrement, word (R180, R189). -/
def execEorwStoreDec (ar : Reg) (m : MemOp) (s : State) : Host.Outcome State Fault Refusal :=
  grStore .storeDec .word .eor ar m s

/-- CMPW: class 1, accumulator to memory, auto decrement, word (R177, R189). -/
def execCmpwStoreDec (ar : Reg) (m : MemOp) (s : State) : Host.Outcome State Fault Refusal :=
  grStore .storeDec .word .cmp ar m s

/-- TSTW: class 1, accumulator to memory, auto decrement, word (R181, R189). -/
def execTstwStoreDec (ar : Reg) (m : MemOp) (s : State) : Host.Outcome State Fault Refusal :=
  grStore .storeDec .word .tst ar m s

/-- MOVB: class 1, accumulator to memory, auto decrement, byte (R174, R189). -/
def execMovbStoreDec (ar : Reg) (m : MemOp) (s : State) : Host.Outcome State Fault Refusal :=
  grStore .storeDec .byte .mov ar m s

/-- SUBB: class 1, accumulator to memory, auto decrement, byte (R175, R189). -/
def execSubbStoreDec (ar : Reg) (m : MemOp) (s : State) : Host.Outcome State Fault Refusal :=
  grStore .storeDec .byte .sub ar m s

/-- ADDB: class 1, accumulator to memory, auto decrement, byte (R176, R189). -/
def execAddbStoreDec (ar : Reg) (m : MemOp) (s : State) : Host.Outcome State Fault Refusal :=
  grStore .storeDec .byte .add ar m s

/-- ANDB: class 1, accumulator to memory, auto decrement, byte (R178, R189). -/
def execAndbStoreDec (ar : Reg) (m : MemOp) (s : State) : Host.Outcome State Fault Refusal :=
  grStore .storeDec .byte .and ar m s

/-- IORB: class 1, accumulator to memory, auto decrement, byte (R179, R189). -/
def execIorbStoreDec (ar : Reg) (m : MemOp) (s : State) : Host.Outcome State Fault Refusal :=
  grStore .storeDec .byte .ior ar m s

/-- EORB: class 1, accumulator to memory, auto decrement, byte (R180, R189). -/
def execEorbStoreDec (ar : Reg) (m : MemOp) (s : State) : Host.Outcome State Fault Refusal :=
  grStore .storeDec .byte .eor ar m s

/-- CMPB: class 1, accumulator to memory, auto decrement, byte (R177, R189). -/
def execCmpbStoreDec (ar : Reg) (m : MemOp) (s : State) : Host.Outcome State Fault Refusal :=
  grStore .storeDec .byte .cmp ar m s

/-- TSTB: class 1, accumulator to memory, auto decrement, byte (R181, R189). -/
def execTstbStoreDec (ar : Reg) (m : MemOp) (s : State) : Host.Outcome State Fault Refusal :=
  grStore .storeDec .byte .tst ar m s

/-- JUMP: R186. -/
def execJump (m : MemOp) (s : State) : Host.Outcome State Fault Refusal :=
  jumpTo m s

/-- JSBR: R187. -/
def execJsbr (ar : Reg) (m : MemOp) (s : State) : Host.Outcome State Fault Refusal :=
  jumpLink ar m s

/-- MOVW: class 4, register form (R174, R190). -/
def execMovwReg (ar : Reg) (xr : Reg) (s : State) : Host.Outcome State Fault Refusal :=
  accReg .mov ar xr s

/-- SUBW: class 4, register form (R175, R190). -/
def execSubwReg (ar : Reg) (xr : Reg) (s : State) : Host.Outcome State Fault Refusal :=
  accReg .sub ar xr s

/-- ADDW: class 4, register form (R176, R190). -/
def execAddwReg (ar : Reg) (xr : Reg) (s : State) : Host.Outcome State Fault Refusal :=
  accReg .add ar xr s

/-- ANDW: class 4, register form (R178, R190). -/
def execAndwReg (ar : Reg) (xr : Reg) (s : State) : Host.Outcome State Fault Refusal :=
  accReg .and ar xr s

/-- IORW: class 4, register form (R179, R190). -/
def execIorwReg (ar : Reg) (xr : Reg) (s : State) : Host.Outcome State Fault Refusal :=
  accReg .ior ar xr s

/-- EORW: class 4, register form (R180, R190). -/
def execEorwReg (ar : Reg) (xr : Reg) (s : State) : Host.Outcome State Fault Refusal :=
  accReg .eor ar xr s

/-- CMPW: class 4, register form (R177, R190). -/
def execCmpwReg (ar : Reg) (xr : Reg) (s : State) : Host.Outcome State Fault Refusal :=
  accReg .cmp ar xr s

/-- TSTW: class 4, register form (R181, R190). -/
def execTstwReg (ar : Reg) (xr : Reg) (s : State) : Host.Outcome State Fault Refusal :=
  accReg .tst ar xr s

/-- MOVW: class 4, literal form (R174, R191). -/
def execMovwLit (ar : Reg) (xr : Reg) (lit : Word) (s : State) : Host.Outcome State Fault Refusal :=
  accLit .mov ar xr lit s

/-- SUBW: class 4, literal form (R175, R191). -/
def execSubwLit (ar : Reg) (xr : Reg) (lit : Word) (s : State) : Host.Outcome State Fault Refusal :=
  accLit .sub ar xr lit s

/-- ADDW: class 4, literal form (R176, R191). -/
def execAddwLit (ar : Reg) (xr : Reg) (lit : Word) (s : State) : Host.Outcome State Fault Refusal :=
  accLit .add ar xr lit s

/-- ANDW: class 4, literal form (R178, R191). -/
def execAndwLit (ar : Reg) (xr : Reg) (lit : Word) (s : State) : Host.Outcome State Fault Refusal :=
  accLit .and ar xr lit s

/-- IORW: class 4, literal form (R179, R191). -/
def execIorwLit (ar : Reg) (xr : Reg) (lit : Word) (s : State) : Host.Outcome State Fault Refusal :=
  accLit .ior ar xr lit s

/-- EORW: class 4, literal form (R180, R191). -/
def execEorwLit (ar : Reg) (xr : Reg) (lit : Word) (s : State) : Host.Outcome State Fault Refusal :=
  accLit .eor ar xr lit s

/-- CMPW: class 4, literal form (R177, R191). -/
def execCmpwLit (ar : Reg) (xr : Reg) (lit : Word) (s : State) : Host.Outcome State Fault Refusal :=
  accLit .cmp ar xr lit s

/-- TSTW: class 4, literal form (R181, R191). -/
def execTstwLit (ar : Reg) (xr : Reg) (lit : Word) (s : State) : Host.Outcome State Fault Refusal :=
  accLit .tst ar xr lit s

/-- MOVW: class 4, immediate form (R174, R192). -/
def execMovwImm (ar : Reg) (k : BitVec 4) (s : State) : Host.Outcome State Fault Refusal :=
  accImm .mov ar k s

/-- SUBW: class 4, immediate form (R175, R192). -/
def execSubwImm (ar : Reg) (k : BitVec 4) (s : State) : Host.Outcome State Fault Refusal :=
  accImm .sub ar k s

/-- ADDW: class 4, immediate form (R176, R192). -/
def execAddwImm (ar : Reg) (k : BitVec 4) (s : State) : Host.Outcome State Fault Refusal :=
  accImm .add ar k s

/-- ANDW: class 4, immediate form (R178, R192). -/
def execAndwImm (ar : Reg) (k : BitVec 4) (s : State) : Host.Outcome State Fault Refusal :=
  accImm .and ar k s

/-- IORW: class 4, immediate form (R179, R192). -/
def execIorwImm (ar : Reg) (k : BitVec 4) (s : State) : Host.Outcome State Fault Refusal :=
  accImm .ior ar k s

/-- EORW: class 4, immediate form (R180, R192). -/
def execEorwImm (ar : Reg) (k : BitVec 4) (s : State) : Host.Outcome State Fault Refusal :=
  accImm .eor ar k s

/-- CMPW: class 4, immediate form (R177, R192). -/
def execCmpwImm (ar : Reg) (k : BitVec 4) (s : State) : Host.Outcome State Fault Refusal :=
  accImm .cmp ar k s

/-- TSTW: class 4, immediate form (R181, R192). -/
def execTstwImm (ar : Reg) (k : BitVec 4) (s : State) : Host.Outcome State Fault Refusal :=
  accImm .tst ar k s

end Sys2Proof.Machine
end

