-- ==== Sys2Proof/Machine/Traps.lean ====
section
/-! DEFINITION. The rows of the opcode table that only trap (R121, R122). -/

namespace Sys2Proof.Machine

/-- `raise Unimplemented(w)` (R462, causes a, b, c, d, f, j, k). -/
def trapRow (w : Word) (s : State) : Host.Outcome State Fault Refusal :=
  execute ⟨w, none⟩ (fun _ s => .trap none s) s

/-! ## The instruction -/

/-- The 19 rows that only trap: class 8 and 9 with T = D, E, F; class C with OP = 0, 1, 6, 7, D, E, F; a class that the model does not implement; the default row (R121, R122). -/
def execTrap (w : Word) (s : State) : Host.Outcome State Fault Refusal :=
  trapRow w s

end Sys2Proof.Machine
end

