-- ==== Sys2Proof/Machine/Dispatch.lean ====
section
/-! DEFINITION. The dispatch: one arm per instruction, one call of its meaning. -/

namespace Sys2Proof.Machine

def exec (i : Instr) (s : State) : Host.Outcome State Fault Refusal :=
  match i with
  | .movwLoad ar m => Sys2Proof.Machine.execMovwLoad ar m s
  | .subwLoad ar m => Sys2Proof.Machine.execSubwLoad ar m s
  | .addwLoad ar m => Sys2Proof.Machine.execAddwLoad ar m s
  | .andwLoad ar m => Sys2Proof.Machine.execAndwLoad ar m s
  | .iorwLoad ar m => Sys2Proof.Machine.execIorwLoad ar m s
  | .eorwLoad ar m => Sys2Proof.Machine.execEorwLoad ar m s
  | .cmpwLoad ar m => Sys2Proof.Machine.execCmpwLoad ar m s
  | .tstwLoad ar m => Sys2Proof.Machine.execTstwLoad ar m s
  | .movbLoad ar m => Sys2Proof.Machine.execMovbLoad ar m s
  | .subbLoad ar m => Sys2Proof.Machine.execSubbLoad ar m s
  | .addbLoad ar m => Sys2Proof.Machine.execAddbLoad ar m s
  | .andbLoad ar m => Sys2Proof.Machine.execAndbLoad ar m s
  | .iorbLoad ar m => Sys2Proof.Machine.execIorbLoad ar m s
  | .eorbLoad ar m => Sys2Proof.Machine.execEorbLoad ar m s
  | .cmpbLoad ar m => Sys2Proof.Machine.execCmpbLoad ar m s
  | .tstbLoad ar m => Sys2Proof.Machine.execTstbLoad ar m s
  | .movwLoadInc ar m => Sys2Proof.Machine.execMovwLoadInc ar m s
  | .subwLoadInc ar m => Sys2Proof.Machine.execSubwLoadInc ar m s
  | .addwLoadInc ar m => Sys2Proof.Machine.execAddwLoadInc ar m s
  | .andwLoadInc ar m => Sys2Proof.Machine.execAndwLoadInc ar m s
  | .iorwLoadInc ar m => Sys2Proof.Machine.execIorwLoadInc ar m s
  | .eorwLoadInc ar m => Sys2Proof.Machine.execEorwLoadInc ar m s
  | .cmpwLoadInc ar m => Sys2Proof.Machine.execCmpwLoadInc ar m s
  | .tstwLoadInc ar m => Sys2Proof.Machine.execTstwLoadInc ar m s
  | .movbLoadInc ar m => Sys2Proof.Machine.execMovbLoadInc ar m s
  | .subbLoadInc ar m => Sys2Proof.Machine.execSubbLoadInc ar m s
  | .addbLoadInc ar m => Sys2Proof.Machine.execAddbLoadInc ar m s
  | .andbLoadInc ar m => Sys2Proof.Machine.execAndbLoadInc ar m s
  | .iorbLoadInc ar m => Sys2Proof.Machine.execIorbLoadInc ar m s
  | .eorbLoadInc ar m => Sys2Proof.Machine.execEorbLoadInc ar m s
  | .cmpbLoadInc ar m => Sys2Proof.Machine.execCmpbLoadInc ar m s
  | .tstbLoadInc ar m => Sys2Proof.Machine.execTstbLoadInc ar m s
  | .movwLoadDec ar m => Sys2Proof.Machine.execMovwLoadDec ar m s
  | .subwLoadDec ar m => Sys2Proof.Machine.execSubwLoadDec ar m s
  | .addwLoadDec ar m => Sys2Proof.Machine.execAddwLoadDec ar m s
  | .andwLoadDec ar m => Sys2Proof.Machine.execAndwLoadDec ar m s
  | .iorwLoadDec ar m => Sys2Proof.Machine.execIorwLoadDec ar m s
  | .eorwLoadDec ar m => Sys2Proof.Machine.execEorwLoadDec ar m s
  | .cmpwLoadDec ar m => Sys2Proof.Machine.execCmpwLoadDec ar m s
  | .tstwLoadDec ar m => Sys2Proof.Machine.execTstwLoadDec ar m s
  | .movbLoadDec ar m => Sys2Proof.Machine.execMovbLoadDec ar m s
  | .subbLoadDec ar m => Sys2Proof.Machine.execSubbLoadDec ar m s
  | .addbLoadDec ar m => Sys2Proof.Machine.execAddbLoadDec ar m s
  | .andbLoadDec ar m => Sys2Proof.Machine.execAndbLoadDec ar m s
  | .iorbLoadDec ar m => Sys2Proof.Machine.execIorbLoadDec ar m s
  | .eorbLoadDec ar m => Sys2Proof.Machine.execEorbLoadDec ar m s
  | .cmpbLoadDec ar m => Sys2Proof.Machine.execCmpbLoadDec ar m s
  | .tstbLoadDec ar m => Sys2Proof.Machine.execTstbLoadDec ar m s
  | .movwStore ar m => Sys2Proof.Machine.execMovwStore ar m s
  | .subwStore ar m => Sys2Proof.Machine.execSubwStore ar m s
  | .addwStore ar m => Sys2Proof.Machine.execAddwStore ar m s
  | .andwStore ar m => Sys2Proof.Machine.execAndwStore ar m s
  | .iorwStore ar m => Sys2Proof.Machine.execIorwStore ar m s
  | .eorwStore ar m => Sys2Proof.Machine.execEorwStore ar m s
  | .cmpwStore ar m => Sys2Proof.Machine.execCmpwStore ar m s
  | .tstwStore ar m => Sys2Proof.Machine.execTstwStore ar m s
  | .movbStore ar m => Sys2Proof.Machine.execMovbStore ar m s
  | .subbStore ar m => Sys2Proof.Machine.execSubbStore ar m s
  | .addbStore ar m => Sys2Proof.Machine.execAddbStore ar m s
  | .andbStore ar m => Sys2Proof.Machine.execAndbStore ar m s
  | .iorbStore ar m => Sys2Proof.Machine.execIorbStore ar m s
  | .eorbStore ar m => Sys2Proof.Machine.execEorbStore ar m s
  | .cmpbStore ar m => Sys2Proof.Machine.execCmpbStore ar m s
  | .tstbStore ar m => Sys2Proof.Machine.execTstbStore ar m s
  | .movwStoreInc ar m => Sys2Proof.Machine.execMovwStoreInc ar m s
  | .subwStoreInc ar m => Sys2Proof.Machine.execSubwStoreInc ar m s
  | .addwStoreInc ar m => Sys2Proof.Machine.execAddwStoreInc ar m s
  | .andwStoreInc ar m => Sys2Proof.Machine.execAndwStoreInc ar m s
  | .iorwStoreInc ar m => Sys2Proof.Machine.execIorwStoreInc ar m s
  | .eorwStoreInc ar m => Sys2Proof.Machine.execEorwStoreInc ar m s
  | .cmpwStoreInc ar m => Sys2Proof.Machine.execCmpwStoreInc ar m s
  | .tstwStoreInc ar m => Sys2Proof.Machine.execTstwStoreInc ar m s
  | .movbStoreInc ar m => Sys2Proof.Machine.execMovbStoreInc ar m s
  | .subbStoreInc ar m => Sys2Proof.Machine.execSubbStoreInc ar m s
  | .addbStoreInc ar m => Sys2Proof.Machine.execAddbStoreInc ar m s
  | .andbStoreInc ar m => Sys2Proof.Machine.execAndbStoreInc ar m s
  | .iorbStoreInc ar m => Sys2Proof.Machine.execIorbStoreInc ar m s
  | .eorbStoreInc ar m => Sys2Proof.Machine.execEorbStoreInc ar m s
  | .cmpbStoreInc ar m => Sys2Proof.Machine.execCmpbStoreInc ar m s
  | .tstbStoreInc ar m => Sys2Proof.Machine.execTstbStoreInc ar m s
  | .movwStoreDec ar m => Sys2Proof.Machine.execMovwStoreDec ar m s
  | .subwStoreDec ar m => Sys2Proof.Machine.execSubwStoreDec ar m s
  | .addwStoreDec ar m => Sys2Proof.Machine.execAddwStoreDec ar m s
  | .andwStoreDec ar m => Sys2Proof.Machine.execAndwStoreDec ar m s
  | .iorwStoreDec ar m => Sys2Proof.Machine.execIorwStoreDec ar m s
  | .eorwStoreDec ar m => Sys2Proof.Machine.execEorwStoreDec ar m s
  | .cmpwStoreDec ar m => Sys2Proof.Machine.execCmpwStoreDec ar m s
  | .tstwStoreDec ar m => Sys2Proof.Machine.execTstwStoreDec ar m s
  | .movbStoreDec ar m => Sys2Proof.Machine.execMovbStoreDec ar m s
  | .subbStoreDec ar m => Sys2Proof.Machine.execSubbStoreDec ar m s
  | .addbStoreDec ar m => Sys2Proof.Machine.execAddbStoreDec ar m s
  | .andbStoreDec ar m => Sys2Proof.Machine.execAndbStoreDec ar m s
  | .iorbStoreDec ar m => Sys2Proof.Machine.execIorbStoreDec ar m s
  | .eorbStoreDec ar m => Sys2Proof.Machine.execEorbStoreDec ar m s
  | .cmpbStoreDec ar m => Sys2Proof.Machine.execCmpbStoreDec ar m s
  | .tstbStoreDec ar m => Sys2Proof.Machine.execTstbStoreDec ar m s
  | .jump m => Sys2Proof.Machine.execJump m s
  | .jsbr ar m => Sys2Proof.Machine.execJsbr ar m s
  | .movwReg ar xr => Sys2Proof.Machine.execMovwReg ar xr s
  | .subwReg ar xr => Sys2Proof.Machine.execSubwReg ar xr s
  | .addwReg ar xr => Sys2Proof.Machine.execAddwReg ar xr s
  | .andwReg ar xr => Sys2Proof.Machine.execAndwReg ar xr s
  | .iorwReg ar xr => Sys2Proof.Machine.execIorwReg ar xr s
  | .eorwReg ar xr => Sys2Proof.Machine.execEorwReg ar xr s
  | .cmpwReg ar xr => Sys2Proof.Machine.execCmpwReg ar xr s
  | .tstwReg ar xr => Sys2Proof.Machine.execTstwReg ar xr s
  | .movwLit ar xr lit => Sys2Proof.Machine.execMovwLit ar xr lit s
  | .subwLit ar xr lit => Sys2Proof.Machine.execSubwLit ar xr lit s
  | .addwLit ar xr lit => Sys2Proof.Machine.execAddwLit ar xr lit s
  | .andwLit ar xr lit => Sys2Proof.Machine.execAndwLit ar xr lit s
  | .iorwLit ar xr lit => Sys2Proof.Machine.execIorwLit ar xr lit s
  | .eorwLit ar xr lit => Sys2Proof.Machine.execEorwLit ar xr lit s
  | .cmpwLit ar xr lit => Sys2Proof.Machine.execCmpwLit ar xr lit s
  | .tstwLit ar xr lit => Sys2Proof.Machine.execTstwLit ar xr lit s
  | .movwImm ar k => Sys2Proof.Machine.execMovwImm ar k s
  | .subwImm ar k => Sys2Proof.Machine.execSubwImm ar k s
  | .addwImm ar k => Sys2Proof.Machine.execAddwImm ar k s
  | .andwImm ar k => Sys2Proof.Machine.execAndwImm ar k s
  | .iorwImm ar k => Sys2Proof.Machine.execIorwImm ar k s
  | .eorwImm ar k => Sys2Proof.Machine.execEorwImm ar k s
  | .cmpwImm ar k => Sys2Proof.Machine.execCmpwImm ar k s
  | .tstwImm ar k => Sys2Proof.Machine.execTstwImm ar k s
  | .nopr d => Sys2Proof.Machine.execNopr d s
  | .brun d => Sys2Proof.Machine.execBrun d s
  | .beqt d => Sys2Proof.Machine.execBeqt d s
  | .beqf d => Sys2Proof.Machine.execBeqf d s
  | .bgtt d => Sys2Proof.Machine.execBgtt d s
  | .bgtf d => Sys2Proof.Machine.execBgtf d s
  | .bovt d => Sys2Proof.Machine.execBovt d s
  | .bovf d => Sys2Proof.Machine.execBovf d s
  | .bcyt d => Sys2Proof.Machine.execBcyt d s
  | .bcyf d => Sys2Proof.Machine.execBcyf d s
  | .bf1t d => Sys2Proof.Machine.execBf1t d s
  | .bf1f d => Sys2Proof.Machine.execBf1f d s
  | .bf2t d => Sys2Proof.Machine.execBf2t d s
  | .bf2f d => Sys2Proof.Machine.execBf2f d s
  | .bf3t d => Sys2Proof.Machine.execBf3t d s
  | .bf3f d => Sys2Proof.Machine.execBf3f d s
  | .blpt d => Sys2Proof.Machine.execBlpt d s
  | .blpf d => Sys2Proof.Machine.execBlpf d s
  | .bodt d => Sys2Proof.Machine.execBodt d s
  | .bodf d => Sys2Proof.Machine.execBodf d s
  | .bzet d => Sys2Proof.Machine.execBzet d s
  | .bzef d => Sys2Proof.Machine.execBzef d s
  | .bngt d => Sys2Proof.Machine.execBngt d s
  | .bngf d => Sys2Proof.Machine.execBngf d s
  | .bltt d => Sys2Proof.Machine.execBltt d s
  | .bltf d => Sys2Proof.Machine.execBltf d s
  | .slaoX ar xr => Sys2Proof.Machine.execSlaoX ar xr s
  | .slaoK ar k => Sys2Proof.Machine.execSlaoK ar k s
  | .slllX ar xr => Sys2Proof.Machine.execSlllX ar xr s
  | .slllK ar k => Sys2Proof.Machine.execSlllK ar k s
  | .slloX ar xr => Sys2Proof.Machine.execSlloX ar xr s
  | .slloK ar k => Sys2Proof.Machine.execSlloK ar k s
  | .sllcX ar xr => Sys2Proof.Machine.execSllcX ar xr s
  | .sllcK ar k => Sys2Proof.Machine.execSllcK ar k s
  | .sraoX ar xr => Sys2Proof.Machine.execSraoX ar xr s
  | .sraoK ar k => Sys2Proof.Machine.execSraoK ar k s
  | .srllX ar xr => Sys2Proof.Machine.execSrllX ar xr s
  | .srllK ar k => Sys2Proof.Machine.execSrllK ar k s
  | .srloX ar xr => Sys2Proof.Machine.execSrloX ar xr s
  | .srloK ar k => Sys2Proof.Machine.execSrloK ar k s
  | .srlcX ar xr => Sys2Proof.Machine.execSrlcX ar xr s
  | .srlcK ar k => Sys2Proof.Machine.execSrlcK ar k s
  | .slan ar xr => Sys2Proof.Machine.execSlan ar xr s
  | .slln ar xr => Sys2Proof.Machine.execSlln ar xr s
  | .sran ar xr => Sys2Proof.Machine.execSran ar xr s
  | .srln ar xr => Sys2Proof.Machine.execSrln ar xr s
  | .dlan ar xr => Sys2Proof.Machine.execDlan ar xr s
  | .dlln ar xr => Sys2Proof.Machine.execDlln ar xr s
  | .dran ar xr => Sys2Proof.Machine.execDran ar xr s
  | .drln ar xr => Sys2Proof.Machine.execDrln ar xr s
  | .dlaoX ar xr => Sys2Proof.Machine.execDlaoX ar xr s
  | .dlaoK pair k => Sys2Proof.Machine.execDlaoK pair k s
  | .dlllX ar xr => Sys2Proof.Machine.execDlllX ar xr s
  | .dlllK pair k => Sys2Proof.Machine.execDlllK pair k s
  | .dlloX ar xr => Sys2Proof.Machine.execDlloX ar xr s
  | .dlloK pair k => Sys2Proof.Machine.execDlloK pair k s
  | .dllcX ar xr => Sys2Proof.Machine.execDllcX ar xr s
  | .dllcK pair k => Sys2Proof.Machine.execDllcK pair k s
  | .draoX ar xr => Sys2Proof.Machine.execDraoX ar xr s
  | .draoK pair k => Sys2Proof.Machine.execDraoK pair k s
  | .drllX ar xr => Sys2Proof.Machine.execDrllX ar xr s
  | .drllK pair k => Sys2Proof.Machine.execDrllK pair k s
  | .drloX ar xr => Sys2Proof.Machine.execDrloX ar xr s
  | .drloK pair k => Sys2Proof.Machine.execDrloK pair k s
  | .drlcX ar xr => Sys2Proof.Machine.execDrlcX ar xr s
  | .drlcK pair k => Sys2Proof.Machine.execDrlcK pair k s
  | .rsts f => Sys2Proof.Machine.execRsts f s
  | .sets f => Sys2Proof.Machine.execSets f s
  | .enbl k => Sys2Proof.Machine.execEnbl k s
  | .enbw k => Sys2Proof.Machine.execEnbw k s
  | .dsbl k => Sys2Proof.Machine.execDsbl k s
  | .dsbw k => Sys2Proof.Machine.execDsbw k s
  | .stsm md d => Sys2Proof.Machine.execStsm md d s
  | .regm md d => Sys2Proof.Machine.execRegm md d s
  | .retn md d => Sys2Proof.Machine.execRetn md d s
  | .msts md d => Sys2Proof.Machine.execMsts md d s
  | .mreg md d => Sys2Proof.Machine.execMreg md d s
  | .fclw ar m => Sys2Proof.Machine.execFclw ar m s
  | .fclb ar m => Sys2Proof.Machine.execFclb ar m s
  | .skey k => Sys2Proof.Machine.execSkey k s
  | .jkey k target => Sys2Proof.Machine.execJkey k target s
  | .lcpu xr => Sys2Proof.Machine.execLcpu xr s
  | .lkey xr => Sys2Proof.Machine.execLkey xr s
  | .rbitX ar xr => Sys2Proof.Machine.execRbitX ar xr s
  | .rbitK ar k => Sys2Proof.Machine.execRbitK ar k s
  | .rbitM ar xr mask => Sys2Proof.Machine.execRbitM ar xr mask s
  | .sbitX ar xr => Sys2Proof.Machine.execSbitX ar xr s
  | .sbitK ar k => Sys2Proof.Machine.execSbitK ar k s
  | .sbitM ar xr mask => Sys2Proof.Machine.execSbitM ar xr mask s
  | .cbitX ar xr => Sys2Proof.Machine.execCbitX ar xr s
  | .cbitK ar k => Sys2Proof.Machine.execCbitK ar k s
  | .cbitM ar xr mask => Sys2Proof.Machine.execCbitM ar xr mask s
  | .ibitX ar xr => Sys2Proof.Machine.execIbitX ar xr s
  | .ibitK ar k => Sys2Proof.Machine.execIbitK ar k s
  | .ibitM ar xr mask => Sys2Proof.Machine.execIbitM ar xr mask s
  | .tsbtX ar xr => Sys2Proof.Machine.execTsbtX ar xr s
  | .tsbtK ar k => Sys2Proof.Machine.execTsbtK ar k s
  | .tsbtM ar xr mask => Sys2Proof.Machine.execTsbtM ar xr mask s
  | .tbitX ar xr => Sys2Proof.Machine.execTbitX ar xr s
  | .tbitK ar k => Sys2Proof.Machine.execTbitK ar k s
  | .tbitM ar xr mask => Sys2Proof.Machine.execTbitM ar xr mask s
  | .negt ar xr => Sys2Proof.Machine.execNegt ar xr s
  | .cplm ar xr => Sys2Proof.Machine.execCplm ar xr s
  | .movp ar xr => Sys2Proof.Machine.execMovp ar xr s
  | .movn ar xr => Sys2Proof.Machine.execMovn ar xr s
  | .dsta ar m => Sys2Proof.Machine.execDsta ar m s
  | .dsub ar m => Sys2Proof.Machine.execDsub ar m s
  | .dadd ar m => Sys2Proof.Machine.execDadd ar m s
  | .divd ar m => Sys2Proof.Machine.execDivd ar m s
  | .dlod ar m => Sys2Proof.Machine.execDlod ar m s
  | .mlta ar m => Sys2Proof.Machine.execMlta ar m s
  | .mult ar m => Sys2Proof.Machine.execMult ar m s
  | .zadd reg1 reg2 o => Sys2Proof.Machine.execZadd reg1 reg2 o s
  | .addd reg1 reg2 o => Sys2Proof.Machine.execAddd reg1 reg2 o s
  | .subd reg1 reg2 o => Sys2Proof.Machine.execSubd reg1 reg2 o s
  | .cmpd reg1 reg2 o => Sys2Proof.Machine.execCmpd reg1 reg2 o s
  | .sftr reg1 reg2 o => Sys2Proof.Machine.execSftr reg1 reg2 o s
  | .movr reg1 reg2 o => Sys2Proof.Machine.execMovr reg1 reg2 o s
  | .sftl reg1 reg2 o => Sys2Proof.Machine.execSftl reg1 reg2 o s
  | .movl reg1 reg2 o => Sys2Proof.Machine.execMovl reg1 reg2 o s
  | .comp reg1 reg2 o => Sys2Proof.Machine.execComp reg1 reg2 o s
  | .trap w => Sys2Proof.Machine.execTrap w s
  | .halt => Sys2Proof.Machine.execHalt s
  | .waitE => Sys2Proof.Machine.execWaitE s
  | .waitD => Sys2Proof.Machine.execWaitD s

end Sys2Proof.Machine
end

