-- ==== Sys2Proof/Machine/Fetch.lean ====
section
/-! DEFINITION. Fetching an instruction and running it, and placing an instruction where the next fetch reads it. -/

namespace Sys2Proof.Machine

/-- What a fetch gives: an instruction, or the outcome of the step that the fetch itself ends. -/
inductive Fetched where
  | instr (i : Instr) (s : State)
  | stop (o : Host.Outcome State Fault Refusal)

/-- What a class 4 instruction may leave after an abort of the fetch of its second word: JUMP and JSBR, whose second word is an
address, keep the accumulator (R199) and write nothing else that lasts. -/
def abortedClass4 (w : Word) (s : State) : State :=
  if w.getLsbD 11 then abortedLiteral (grOpOf (fieldOp w)) (fieldAr w) s
  else match bitOpOf (fieldOp w) with
    | some op => abortedMask op (fieldAr w) s
    | none => s

/-- What an instruction with first word `w` may leave after an abort of the fetch of its second word, that is of an access of
its own (R77, R162, R475): open values in all that it could write, but for memory whose address the second word would have given
(assumption log 9). Class 0 has FCLW, FCLB and JKEY here. -/
def abortedSecondWord (w : Word) (s : State) : State :=
  match (fieldC w).toNat with
  | 0 => if fieldOp w = 6 then s.freeReg (fieldAr w) else s.freeKey
  | 1 | 5 => abortedOperation (grOpOf (fieldOp w)) .dec (fieldXr w) s
  | 2 | 6 => abortedOperation (grOpOf (fieldOp w)) .inc (fieldXr w) s
  | 3 | 7 => abortedOperation (grOpOf (fieldOp w)) .none (fieldXr w) s
  | 4 => abortedClass4 w s
  | 11 =>
    match fixedOpOf (fieldOp w) with
    | some op => abortedFixed op (fieldAr w) s
    | none => s
  | 12 =>
    match decimalOpOf (fieldT w) with
    | some op => abortedDecimal op [] s
    | none => s
  | _ => s

/-- The second word, where the instruction has one that is read (R68, R104, R463). -/
def fetchSecond (p w : Word) (s : State) : Fetched :=
  if readsSecondWord s.par.model w then
    match (busRead .word (p + 2) s).onAbort (abortedSecondWord w) with
    | .ok w2 s => .instr (decode s.par.model w w2) s
    | .abort a wd s => .stop (raiseAbort p (some w) a wd s)
    | .trap saved s => .stop (raiseUnimplemented p w saved s)
    | .refuse r => .stop (.refused r)
  else .instr (decode s.par.model w 0) s

/-- The instruction at the program counter (R29, R68, R484). -/
def fetch (s : State) : Fetched :=
  if s.pc.getLsbD 0 then .stop (.fault .oddProgramCounter)
  else
    match busRead .word s.pc s with
    | .ok w s => fetchSecond s.pc w s
    | .abort a wd s => .stop (raiseAbort s.pc none a wd s)
    | .trap saved s => .stop (raiseUnimplemented s.pc 0 saved s)
    | .refuse r => .stop (.refused r)

/-- One step of a running processor: an enabled pending request is taken before the next fetch (R483); else the instruction
at the program counter is executed. -/
def runStep (s : State) : Host.Outcome State Fault Refusal :=
  match pickLevel s with
  | some l => takeSystem l s
  | none =>
    match fetch s with
    | .instr i s => exec i s
    | .stop o => o

/-- One step once the input events have arrived, by the run state (R47, R485). -/
def stepArrived (s : State) : Host.Outcome State Fault Refusal :=
  match s.run with
  | .running => runStep s
  | .waiting => waitStep s
  | .halted => .next s

/-- The model whose opcode rows include the word of an instruction: the present one where it has it, else the one that the
class belongs to (R3, R102). -/
def modelFor (mdl : Model) (w : Word) : Model :=
  if hasSecondWord mdl w == hasSecondWord (tableModel w) w && decode mdl w 0 == decode (tableModel w) w 0 then mdl
  else tableModel w

/-- An instruction, numbered as spec/opcode_table.json numbers it, stored where the next step fetches it: the machine runs,
nothing arrives and nothing is pending, the program counter is even and its two words are present memory (assumption
log 20). -/
def placeInstruction (s : State) (nbits w : Nat) : State :=
  let n := lowBits nbits w
  let first := BitVec.ofNat 16 n
  let second := BitVec.ofNat 16 (n / 2 ^ 16)
  let p := s.pc &&& 0xFFFE
  let par := { s.par with model := modelFor s.par.model first }
  let s := { s with run := .running, inputs := [], pending := [], par := par }
  ((s.setPc p).putWord p first).putWord (p + 2) second

end Sys2Proof.Machine
end

