-- ==== Sys2Proof/Machine/Step.lean ====
section
/-! DEFINITION. The step of the machine, and an instruction placed as the next to run. -/

namespace Sys2Proof.Machine

/-- One step: the input events that arrive before it, then an interrupt entry, one instruction, or nothing. -/
def step (s : State) : Host.Outcome State Fault Refusal := stepArrived (arrive s)

/-- `s` with an instruction stored where the next step fetches it; see `placeInstruction`. -/
def State.withFetchWord (s : State) (nbits w : Nat) : State := placeInstruction s nbits w

end Sys2Proof.Machine
end

