-- ==== Sys2Proof/Safety.lean ====
section
/-! DEFINITION. What counts as a sound state, and the words that claims are stated in: what two states share, where memory
answers, what an entry leaves, and closed forms of results, written from the spec and not from the step. -/

namespace Sys2Proof.Machine

/-! ## Sound states -/

/-- Program memory is in its canonical form and lies below F000 (R60, R61). -/
def memorySound (s : State) : Bool := s.mem.wf && s.mem.all fun c => decide (c.1 < 0xF000)

/-- A waiting processor has a level enabled: with none, the wait would have trapped (R280). -/
def waitSound (s : State) : Bool := s.run != .waiting || maskBits s.st != 0xF

/-- A sound state: memory as above, bit A set (R40), the pending requests a set (R481), and a wait that can end. -/
def State.Sound (s : State) : Prop :=
  memorySound s = true ∧ active s.st = true ∧ s.pending.Nodup ∧ waitSound s = true

/-! ## What two states share -/

/-- Every byte reads the same. -/
def SameMemory (s t : State) : Prop := ∀ a : Nat, t.byteAt a = s.byteAt a

/-- Every byte outside a list of byte addresses reads the same. -/
def SameMemoryBut (changed : List Word) (s t : State) : Prop :=
  ∀ a : Nat, (∀ w ∈ changed, a ≠ w.toNat) → t.byteAt a = s.byteAt a

/-- As `SameMemoryBut`, where no access reached a device: a device may change memory by block transfer (R78). -/
def QuietMemoryBut (changed : List Word) (s t : State) : Prop :=
  t.deviceLog = s.deviceLog → SameMemoryBut changed s t

/-- Every general register but those of a list, and but the program counter, is the same. -/
def SameRegsBut (changed : List Reg) (s t : State) : Prop :=
  ∀ r : Reg, r ≠ .r0 → r ∉ changed → t.reg r = s.reg r

/-- Every bit outside a mask is the same. -/
def SameBitsBut (mask st st' : Word) : Prop := st' &&& ~~~mask = st &&& ~~~mask

/-- Requests, parameters and inputs are the same. -/
def SameInputs (s t : State) : Prop := t.pending = s.pending ∧ t.par = s.par ∧ t.inputs = s.inputs

/-- Requests, parameters, inputs, key and run state are the same. -/
def SameControl (s t : State) : Prop := SameInputs s t ∧ t.key = s.key ∧ t.run = s.run

/-- No device was accessed. -/
def SameDevices (s t : State) : Prop := t.deviceScript = s.deviceScript ∧ t.deviceLog = s.deviceLog

/-- All but the program counter, the registers of a list, the status bits of a mask, the memory bytes of a list and the
counter of free values is the same. -/
def SameBut (regs : List Reg) (mask : Word) (bytes : List Word) (s t : State) : Prop :=
  SameRegsBut regs s t ∧ SameBitsBut mask s.st t.st ∧ SameMemoryBut bytes s t ∧ SameControl s t ∧ SameDevices s t

/-! ## Where memory answers -/

/-- Program memory answers for an access at an address. -/
def InMemory (s : State) (wd : Width) (a : Word) : Prop := s.site (busAddress wd a) = .memory

/-- Program memory answers at all four words of a level's block (R470). -/
def BlockInMemory (s : State) (l : Level) : Prop :=
  ∀ k ∈ [(0 : Word), 2, 4, 6], InMemory s .word (blockBase s.par.cpuId l + k)

/-- Program memory answers at every byte of a list. -/
def BytesInMemory (s : State) (as : List Word) : Prop := ∀ a ∈ as, InMemory s .byte a

/-- Program memory answers at every word of a list. -/
def WordsInMemory (s : State) (as : List Word) : Prop := ∀ a ∈ as, InMemory s .word a

/-- The byte addresses that a transfer of a width at an address covers (R62). -/
def transferBytes (wd : Width) (a : Word) : List Word :=
  match wd with
  | .word => bytesOfWord a
  | .byte => [a]

/-- The context in which an instruction of these words executes at the program counter of `s`. -/
def contextOf (code : Code) (s : State) : Ctx := { p := s.pc, code := code }

/-- The state in which the body of an instruction of these words starts: the program counter at NEXT (R26). -/
def startOf (code : Code) (s : State) : State := s.setPc (contextOf code s).next

/-- A value that a general register can give as an operand of an instruction of these words; register 0 gives `PC_OPERAND`
(R27). -/
def ReadsAs (code : Code) (r : Reg) (s : State) (v : Word) : Prop :=
  match r, s.par.pcOperand with
  | .r0, .current => v = s.pc
  | .r0, .next => v = (contextOf code s).next
  | .r0, .unstated => True
  | r, _ => v = s.reg r

/-! ## What an entry leaves -/

/-- `t` is `s` after an entry at a level (R472): the block holds the information word, the status and the return address, the
processor runs at the vector, and the general registers, the key, the requests and the rest of memory are as before. -/
def EntryDone (l : Level) (info ret : Word) (s t : State) : Prop :=
  let b := blockBase s.par.cpuId l
  t.wordAt b = info ∧ t.wordAt (b + 2) = s.statusWord ∧ t.wordAt (b + 4) = ret ∧ t.pc = s.wordAt (b + 6) ∧
    t.st = entryStatus s.par l s.st ∧ t.run = .running ∧ t.key = s.key ∧ SameInputs s t ∧ SameDevices s t ∧
    SameRegsBut [] s t ∧ SameMemoryBut (bytesOfWord b ++ bytesOfWord (b + 2) ++ bytesOfWord (b + 4)) s t

/-- The return address that a level-5 or level-6 entry saves, as far as `TRAP_SAVED_PC` fixes it (R474). -/
def SavedPc (s : State) (w ret : Word) : Prop :=
  match s.par.trapSavedPc with
  | .current => ret = s.pc
  | .afterFirst => ret = s.pc + 2
  | .next => ∀ n, suggestedWords w = some n → ret = s.pc + BitVec.ofNat 16 (2 * n)
  | .unstated => True

/-- `t` is `s` after the unimplemented-instruction trap of a word at the program counter of `s` (R462, R472), where the
instruction has left `u`. -/
def Trapped (w : Word) (s u t : State) : Prop := ∃ ret, SavedPc s w ret ∧ EntryDone .unimplemented w ret u t

/-! ## Encodings that trap -/

/-- The words that the source itself says trap, whatever the state and the second word: R121 (a), (b), (f), (g), (h). -/
def SourceTraps (mdl : Model) (w : Word) : Prop :=
  13 ≤ (fieldC w).toNat ∨
  fieldC w = 11 ∧ mdl.isScientific = false ∨
  fieldC w = 12 ∧ mdl.isDecimal = false ∨
  (fieldC w = 8 ∨ fieldC w = 9) ∧ 13 ≤ (fieldT w).toNat ∨
  fieldC w = 0 ∧ fieldOp w = 6 ∧ mdl = .m1110 ∨
  fieldC w = 12 ∧ fieldT w ∈ [0, 1, 6, 7, 13, 14, 15] ∨
  fieldC w = 11 ∧ fieldAr w ∈ [.r0, .r1]

/-- The encodings inside implemented classes that R122 lets trap by decision D4, in its order (assumption log 29). -/
def DecisionTraps (mdl : Model) (w w2 : Word) : Prop :=
  fieldC w = 0 ∧ fieldT w = 10 ∨
  fieldC w = 0 ∧ fieldT w = 8 ∧
    (fieldH3 w ∉ [0, 1, 2, 3, 4, 8, 12] ∨ fieldH3 w = 1 ∧ mdl = .m1110 ∨
      fieldH3 w ∈ [2, 3] ∧ mdl.isScientific = false ∨
      fieldH3 w = 1 ∧ w.getLsbD 2 = true ∨
      fieldH3 w = 1 ∧ w.getLsbD 3 = true ∧ mdl.isScientific = false ∨
      fieldH3 w ∈ [2, 3] ∧ w.getLsbD 3 = true) ∨
  fieldC w = 4 ∧ w.getLsbD 11 = false ∧ fieldOp w ≠ 0 ∧ mdl.isScientific = false ∨
  fieldC w = 10 ∧ w.getLsbD 11 = true ∧ mdl.isScientific = false ∨
  fieldC w = 10 ∧ w.getLsbD 7 = false ∧ w.getLsbD 3 = true ∧ (mdl.isScientific = false ∨ w.getLsbD 8 = true) ∨
  fieldC w = 11 ∧ (w.getLsbD 11 = true ∨ fieldOp w ∈ [6, 7]) ∨
  fieldC w = 12 ∧ (w.getLsbD 7 = true ∨ w.getLsbD 3 = true ∨ w2.getLsbD 7 = true ∨ w2.getLsbD 3 = true)

/-! ## Indicators of a result -/

/-- NG, ZE and OD are those of a word (R171). -/
def NzoOf (r st : Word) : Prop :=
  flag st .ng = r.getLsbD 15 ∧ flag st .ze = decide (r = 0) ∧ flag st .od = r.getLsbD 0

/-- NG, ZE and OD are those of a double-length result (R51). -/
def Nzo2Of (x : DoubleWord) (st : Word) : Prop :=
  flag st .ng = x.h.getLsbD 15 ∧ flag st .ze = decide (x.h = 0 ∧ x.l = 0) ∧ flag st .od = x.l.getLsbD 0

/-- A number outside the two's complement numbers of a width. -/
def outOfRange (bits : Nat) (n : Int) : Bool := decide (n < -(2 ^ (bits - 1))) || decide (2 ^ (bits - 1) ≤ n)

/-- The operations that store a result: all but CMP and TST (R171, R177, R181). -/
def stores (op : GrOp) : Bool := decide (op ≠ .cmp ∧ op ≠ .tst)

/-- The indicators that a general operation affects: NG, ZE, OD, with CY and OV for ADD and SUB; EQ, GT for CMP (R43, R174 to
R181). -/
def affected (op : GrOp) : Word :=
  match op with
  | .mov | .and | .ior | .eor | .tst => 0x0700
  | .sub | .add => 0x070C
  | .cmp => 0x0003

/-- `r` is the result of a general operation on source and target; CMP has none (R171, R174 to R181). -/
def OpResult (op : GrOp) (src tgt r : Word) : Prop :=
  match op with
  | .mov => r = src
  | .sub => r.toNat = (65536 - src.toNat + tgt.toNat) % 65536
  | .add => r.toNat = (tgt.toNat + src.toNat) % 65536
  | .and | .tst => ∀ j < 16, r.getLsbD j = (src.getLsbD j && tgt.getLsbD j)
  | .ior => ∀ j < 16, r.getLsbD j = (src.getLsbD j || tgt.getLsbD j)
  | .eor => ∀ j < 16, r.getLsbD j = (src.getLsbD j != tgt.getLsbD j)
  | .cmp => True

/-- The indicators that a general operation on source and target leaves where they were those of `st` (R174 to R181). -/
def OpFlags (op : GrOp) (src tgt st st' : Word) : Prop :=
  match op with
  | .mov => NzoOf src st'
  | .and | .tst => NzoOf (src &&& tgt) st'
  | .ior => NzoOf (src ||| tgt) st'
  | .eor => NzoOf (src ^^^ tgt) st'
  | .add =>
    NzoOf (tgt + src) st' ∧ flag st' .cy = decide (65536 ≤ tgt.toNat + src.toNat) ∧
      flag st' .ov = (flag st .ov || outOfRange 16 (tgt.toInt + src.toInt))
  | .sub =>
    NzoOf (tgt - src) st' ∧ flag st' .cy = decide (src.toNat ≤ tgt.toNat) ∧
      flag st' .ov = (flag st .ov || outOfRange 16 (tgt.toInt - src.toInt))
  | .cmp => flag st' .eq = decide (src = tgt) ∧ flag st' .gt = decide (tgt.toNat < src.toNat)

/-- The bit of LP for a class with an automatic step, none for the others (R158). -/
def loopBit : AutoStep → Word
  | .none => 0
  | .inc | .dec => 0x0080

/-! ## Addresses -/

/-- The size of an operand in bytes, by which a class steps its index register (R141, R147, R156). -/
def operandSize : Width → Word
  | .byte => 1
  | .word => 2

/-- What the automatic step adds to the index register (R147, R156). -/
def stepAmount : AutoStep → Width → Word
  | .none, _ => 0
  | .inc, wd => operandSize wd
  | .dec, wd => -operandSize wd

/-- The index value that enters the sum: the register, decremented first where the class says so; 0 for XR = 0 (R147,
R148). -/
def indexEntered (auto : AutoStep) (wd : Width) (xr : Reg) (s : State) : Word :=
  match xr, auto with
  | .r0, _ => 0
  | xr, .dec => s.reg xr - operandSize wd
  | xr, .none | xr, .inc => s.reg xr

/-- D0 (R146 to R148). -/
def developed (auto : AutoStep) (wd : Width) (m : MemOp) (s : State) : Word :=
  m.ext.getD 0 + indexEntered auto wd m.xr s

/-- The k-th pointer of an indirect chain from D0: the word at D0, then each time the word that the last one points at
(R153). -/
def pointer (s : State) (d0 : Word) : Nat → Word
  | 0 => s.wordAt d0
  | k + 1 => s.wordAt (pointer s d0 k)

/-- The address of read number k of an indirect chain from D0: D0 itself, then the pointer that the read before has given
(R153). -/
def readAddress (s : State) (d0 : Word) : Nat → Word
  | 0 => d0
  | k + 1 => pointer s d0 k

/-- The state after the automatic step. -/
def stepped (c : Ctx) (auto : AutoStep) (wd : Width) (m : MemOp) (s : State) : State :=
  match auto with
  | .none => s
  | .inc | .dec => stepIndex c m.xr (stepAmount auto wd) s

/-! ## Shifts -/

/-- The value that a single shift by n leaves; the linked ones rotate the 17 bits of CY and the register (R245 to R252). -/
def shiftedValue (op : ShiftOp) (n : Nat) (cy : Bool) (a : Word) : Word :=
  match op with
  | .lao | .llo => a <<< n
  | .lll => ((BitVec.ofBool cy ++ a).rotateLeft n).extractLsb' 0 16
  | .llc => a.rotateLeft n
  | .rao => a.sshiftRight n
  | .rll => ((BitVec.ofBool cy ++ a).rotateRight n).extractLsb' 0 16
  | .rlo => a >>> n
  | .rlc => a.rotateRight n

/-- CY after a single shift by n (R245 to R252). -/
def shiftedCarry (op : ShiftOp) (n : Nat) (cy : Bool) (a : Word) : Bool :=
  match op with
  | .lao => if n = 0 then cy else a.getLsbD (16 - n)
  | .lll => ((BitVec.ofBool cy ++ a).rotateLeft n).getLsbD 16
  | .rll => ((BitVec.ofBool cy ++ a).rotateRight n).getLsbD 16
  | .rao => false
  | .llo | .llc | .rlo | .rlc => cy

/-- OV after a single shift by n: SLAO and SLLL set it where the sign changes on the way, that is where the signed product
by 2^n does not fit (R245, R246). -/
def shiftedOverflow (op : ShiftOp) (n : Nat) (ov : Bool) (a : Word) : Bool :=
  match op with
  | .lao | .lll => ov || outOfRange 16 (a.toInt * 2 ^ n)
  | .llo | .llc | .rao | .rll | .rlo | .rlc => ov

/-- The number of a pair: the sign and fifteen bits of h over the low fifteen bits of l (R50). -/
def pairNumber (x : DoubleWord) : Int := x.h.toInt * 32768 + (x.l.toNat % 32768 : Nat)

/-- The 31 bits of a double-length number: h, then l without its bit 15 (R50). -/
def bits31 (x : DoubleWord) : BitVec 31 := x.h ++ x.l.extractLsb' 0 15

/-- The 32 bits of a pair. -/
def bits32 (x : DoubleWord) : BitVec 32 := x.h ++ x.l

/-- S' is adjusted: bit 15 of the low word is the sign, or 0 when the low word's other bits are (R50). -/
def SignAdjusted (x : DoubleWord) : Prop :=
  x.l.getLsbD 15 = (x.h.getLsbD 15 && decide (x.l.extractLsb' 0 15 ≠ 0))

/-- `y` is what a double shift by n leaves of `x`, with CY as it was (R407 to R415). -/
def DoubleShifted (op : ShiftOp) (n : Nat) (cy : Bool) (x y : DoubleWord) : Prop :=
  match op with
  | .lao => bits31 y = bits31 x <<< n ∧ (if n = 0 then y = x else SignAdjusted y)
  | .rao => bits31 y = (bits31 x).sshiftRight n ∧ (if n = 0 then y = x else SignAdjusted y)
  | .lll => bits32 y = ((BitVec.ofBool cy ++ bits32 x).rotateLeft n).extractLsb' 0 32
  | .rll => bits32 y = ((BitVec.ofBool cy ++ bits32 x).rotateRight n).extractLsb' 0 32
  | .llo => bits32 y = bits32 x <<< n
  | .llc => bits32 y = (bits32 x).rotateLeft n
  | .rlo => bits32 y = bits32 x >>> n
  | .rlc => bits32 y = (bits32 x).rotateRight n

/-- CY after a double shift by n (R408, R409, R412, R413). -/
def doubleShiftedCarry (op : ShiftOp) (n : Nat) (cy : Bool) (x : DoubleWord) : Bool :=
  match op with
  | .lao => if n = 0 then cy else (bits31 x).getLsbD (31 - n)
  | .lll => ((BitVec.ofBool cy ++ bits32 x).rotateLeft n).getLsbD 32
  | .rll => ((BitVec.ofBool cy ++ bits32 x).rotateRight n).getLsbD 32
  | .llo | .llc | .rao | .rlo | .rlc => cy

/-- OV after a double shift by n: only DLAO sets it (R408). -/
def doubleShiftedOverflow (op : ShiftOp) (n : Nat) (ov : Bool) (x : DoubleWord) : Bool :=
  match op with
  | .lao => ov || outOfRange 31 (pairNumber x * 2 ^ n)
  | .lll | .llo | .llc | .rao | .rll | .rlo | .rlc => ov

/-- `r` is `a` normalized by n steps: the number scaled by 2^n, and no step left to do (R393 to R396). -/
def Normalized (op : NormOp) (n : Nat) (a r : Word) : Prop :=
  match op with
  | .la => r.toInt = a.toInt * 2 ^ n ∧ r.getLsbD 15 ≠ r.getLsbD 14
  | .ll => r.toNat = a.toNat * 2 ^ n ∧ r.getLsbD 15 = true
  | .ra => a.toInt = r.toInt * 2 ^ n ∧ r.getLsbD 0 = true
  | .rl => a.toNat = r.toNat * 2 ^ n ∧ r.getLsbD 0 = true

/-- `y` is the pair `x` normalized by n steps (R397 to R400). -/
def DoubleNormalized (op : NormOp) (n : Nat) (x y : DoubleWord) : Prop :=
  match op with
  | .la => pairNumber y = pairNumber x * 2 ^ n ∧ y.h.getLsbD 15 ≠ y.h.getLsbD 14 ∧ SignAdjusted y
  | .ll => (bits32 y).toNat = (bits32 x).toNat * 2 ^ n ∧ y.h.getLsbD 15 = true
  | .ra => pairNumber x = pairNumber y * 2 ^ n ∧ y.l.getLsbD 0 = true ∧ SignAdjusted y
  | .rl => (bits32 x).toNat = (bits32 y).toNat * 2 ^ n ∧ y.l.getLsbD 0 = true

/-- The operand of a double normalize is zero; the arithmetic ones ignore S' (R397 to R400). -/
def PairZero (op : NormOp) (x : DoubleWord) : Prop :=
  match op with
  | .la | .ra => pairNumber x = 0
  | .ll | .rl => bits32 x = 0

/-! ## What an instruction of a family leaves -/

/-- `t` is `s` after an operation with register `ar` as its target (R170, R171, R174 to R181). -/
def RegisterDone (op : GrOp) (ar : Reg) (src tgt next : Word) (s t : State) : Prop :=
  (stores op = true → OpResult op src tgt (t.reg ar)) ∧ OpFlags op src tgt s.st t.st ∧
    (stores op = false ∨ ar ≠ .r0 → t.pc = next) ∧
    SameBut (if stores op then [ar] else []) (affected op) [] s t

/-- `t` is `s` after a single shift by n (R243). -/
def ShiftDone (code : Code) (op : ShiftOp) (ar : Reg) (n : Nat) (s t : State) : Prop :=
  (∃ a, ReadsAs code ar s a ∧ t.reg ar = shiftedValue op n (flag s.st .cy) a ∧
    flag t.st .cy = shiftedCarry op n (flag s.st .cy) a ∧ flag t.st .ov = shiftedOverflow op n (flag s.st .ov) a) ∧
    NzoOf (t.reg ar) t.st ∧ (ar ≠ .r0 → t.pc = s.pc + 2) ∧ SameBut [ar] 0x070C [] s t

/-- `t` is `s` after a double shift by n (R407). -/
def DoubleShiftDone (op : ShiftOp) (ar : Reg) (n : Nat) (s t : State) : Prop :=
  DoubleShifted op n (flag s.st .cy) (pairOf ar s) (pairOf ar t) ∧
    flag t.st .cy = doubleShiftedCarry op n (flag s.st .cy) (pairOf ar s) ∧
    flag t.st .ov = doubleShiftedOverflow op n (flag s.st .ov) (pairOf ar s) ∧
    Nzo2Of (pairOf ar t) t.st ∧ t.pc = s.pc + 2 ∧ SameBut [pairHigh ar, pairLow ar] 0x070C [] s t

/-- The program counter after a normalize whose XR is 0: the count is added to it as data (R392). -/
def CountedPc (code : Code) (n : Nat) (s t : State) : Prop :=
  if n = 0 then t.pc = s.pc + 2 else ∃ v, ReadsAs code .r0 s v ∧ t.pc = v + BitVec.ofNat 16 n

/-- `r` is what a bit operation with a mask makes of `a`; TBIT changes nothing (R364 to R369). -/
def BitValue (op : BitOp) (a mask r : Word) : Prop :=
  match op with
  | .rbit => ∀ j < 16, r.getLsbD j = (a.getLsbD j && !mask.getLsbD j)
  | .sbit => ∀ j < 16, r.getLsbD j = (a.getLsbD j || mask.getLsbD j)
  | .cbit => ∀ j < 16, r.getLsbD j = (a.getLsbD j != mask.getLsbD j)
  | .ibit => ∀ j < 16, r.getLsbD j = (a.getLsbD j && mask.getLsbD j)
  | .tsbt => r.toNat = a.toNat * 2 % 65536
  | .tbit => r = a

/-- `t` is `s` after a bit manipulation with a mask (R362 to R369). -/
def BitDone (code : Code) (op : BitOp) (ar : Reg) (mask : Word) (s t : State) : Prop :=
  (∃ a, ReadsAs code ar s a ∧ flag t.st .cy = decide (a &&& mask ≠ 0) ∧
    (op ≠ .tbit → BitValue op a mask (t.reg ar) ∧ NzoOf (t.reg ar) t.st)) ∧
    (op = .tbit ∨ ar ≠ .r0 → t.pc = (contextOf code s).next) ∧
    SameBut (if op = .tbit then [] else [ar]) 0x0708 [] s t

/-- The value of a register move (R377 to R380). -/
def MoveValue (op : MoveOp) (v r : Word) : Prop :=
  match op with
  | .negt => r.toNat = (65536 - v.toNat) % 65536
  | .cplm => r.toNat = 65535 - v.toNat
  | .movp => r.toNat = v.toInt.natAbs
  | .movn => r.toNat = (65536 - v.toInt.natAbs) % 65536

/-- The indicators that a class B instruction affects (R435 to R443). -/
def fixedAffected (op : FixedOp) (ar : Reg) : Word :=
  match op with
  | .dsta | .dlod => 0x0700
  | .dadd | .dsub => 0x070C
  | .divd => 0x0704
  | .mult => if ar ∈ [.r3, .r5, .r7] then 0x0700 else 0x0708

/-- `i` is an instruction of the processor's model that develops an operand address of a width from `m`; while it does so, an
abort opens at most the registers `opened` and the status bits `mask` (R77, R199, R475, assumption log 9): LP, the stepped
register and the indicators of a general register instruction, nothing of JUMP and JSBR, the accumulator of FCLW and FCLB, the
pair and the indicators of class B. -/
def DevelopsAddress (mdl : Model) (i : Instr) (auto : AutoStep) (wd : Width) (m : MemOp) (opened : List Reg) (mask : Word) :
    Prop :=
  (∃ cls op ar, i = grInstr cls wd op ar m ∧ auto = autoStep cls ∧
      opened = (if auto = .none then [] else [m.xr]) ∧ mask = affected op ||| loopBit auto) ∨
    auto = .none ∧
      (((i = .jump m ∨ ∃ ar, i = .jsbr ar m) ∧ wd = .word ∧ opened = [] ∧ mask = 0) ∨
        (∃ ar, mdl ≠ .m1110 ∧ (wd = .word ∧ i = .fclw ar m ∨ wd = .byte ∧ i = .fclb ar m) ∧ opened = [ar] ∧ mask = 0) ∨
        ∃ op ar, mdl.isScientific = true ∧ (isPair ar = true ∨ op = .mult ∧ ar ∈ [.r3, .r5, .r7]) ∧
          i = fixedInstr op ar m ∧ wd = .word ∧ opened = (if op = .dsta then [] else [pairHigh ar, pairLow ar]) ∧
          mask = fixedAffected op ar)

/-- What a class B instruction keeps: all but the pair, the status bits of a mask and the bytes of a list (R432). -/
def FixedFrame (ar : Reg) (mask : Word) (bytes : List Word) (s t : State) : Prop :=
  SameRegsBut [pairHigh ar, pairLow ar] s t ∧ SameBitsBut mask s.st t.st ∧ SameControl s t ∧ QuietMemoryBut bytes s t

/-- What a waiting processor `u` does, whose program counter is the address of the wait instruction: it goes on waiting, or
takes a request of level 4, or runs on at NEXT with the request of level 1 to 3 still pending (R280, R485). -/
def WaitOutcome (u : State) (outcome : Host.Outcome State Fault Refusal) : Prop :=
  (pickLevel u = none → outcome = .next u) ∧
    (pickLevel u = some .l4 → BlockInMemory u (.system .l4) →
      ∃ r t, r ∈ u.pending ∧ r.level = .l4 ∧ outcome = .next t ∧
        EntryDone (.system .l4) r.moduleAddr u.pc (u.setPending (u.pending.erase r)) t) ∧
    ∀ l ∈ [SysLevel.l1, .l2, .l3], pickLevel u = some l → outcome = .next ((u.setPc (u.pc + 2)).setRun .running)

/-- A wait instruction with word w that leaves the status st': it enters the wait, the program counter unchanged, which an
enabled request already pending ends at once, or it traps, with P saved, when st' masks all levels (R280). -/
def WaitOrTrap (w st' : Word) (s : State) (outcome : Host.Outcome State Fault Refusal) : Prop :=
  (maskBits st' ≠ 0xF → WaitOutcome ((s.setSt st').setRun .waiting) outcome) ∧
    (maskBits st' = 0xF → BlockInMemory s .unimplemented →
      ∃ t, outcome = .next t ∧ EntryDone .unimplemented w s.pc (s.setSt st') t)

/-! ## Class C -/

/-- The three words of temporary storage, in the processor's own level-5 block (R324). -/
def storageWords (s : State) : List Word :=
  let t := 0x0020 + 0x0010 * BitVec.ofNat 16 s.par.cpuId.toNat
  [t, t + 2, t + 4]

/-- The bytes of the temporary storage. -/
def storageBytes (s : State) : List Word := (storageWords s).flatMap bytesOfWord

/-- The state after the registers 5, 6, 7 are saved (R324). -/
def savedState (s : State) : State :=
  let t : Word := 0x0020 + 0x0010 * BitVec.ofNat 16 s.par.cpuId.toNat
  ((s.putWord t (s.reg .r5)).putWord (t + 2) (s.reg .r6)).putWord (t + 4) (s.reg .r7)

/-- The content of an index register X1 or X2, 0 for none (R321). -/
def appended (x : Reg) (s : State) : Nat := if x = .r0 then 0 else (s.reg x).toNat

/-- The source field: from the address in R1, L1 + (X1) + 1 bytes (R321, R323). -/
def sourceOf (reg1 : Reg) (o : DecOperands) (s : State) : Field := ⟨s.reg reg1, o.l1.toNat + appended o.x1 s + 1⟩

/-- The destination field: from the address in R2, L2 + (X2) + 1 bytes (R321, R323). -/
def destOf (reg2 : Reg) (o : DecOperands) (s : State) : Field := ⟨s.reg reg2, o.l2.toNat + appended o.x2 s + 1⟩

/-- The address of byte number k of a field from its left end (R323). -/
def byteAddress (f : Field) (k : Nat) : Word := f.addr + BitVec.ofNat 16 k

/-- The address of byte number k of a field from its right end. -/
def byteAddressRight (f : Field) (k : Nat) : Word := byteAddress f (f.len - 1 - k)

/-- The addresses of the bytes of a field, from its right end. -/
def bytesOfField (f : Field) : List Word := (List.range f.len).map (byteAddressRight f)

/-- The sign nibble of a field whose bytes are listed from the right end: the low half of the last byte (R325). -/
def fieldSign (bs : List Byte) : BitVec 4 := (bs.getD 0 0).extractLsb' 0 4

/-- The digit number j, units first, of a field whose bytes are listed from the right end (R325). -/
def fieldDigit (bs : List Byte) (j : Nat) : BitVec 4 :=
  if j % 2 = 0 then (bs.getD (j / 2) 0).extractLsb' 4 4 else (bs.getD (j / 2 + 1) 0).extractLsb' 0 4

/-- A field of n bytes has 2 n - 1 digits, each at most 9 in valid data (R325). -/
def DigitsValid (bs : List Byte) : Prop := ∀ j < 2 * bs.length - 1, (fieldDigit bs j).toNat ≤ 9

/-- Valid decimal data (R325). -/
def FieldValid (bs : List Byte) : Prop := DigitsValid bs ∧ (fieldSign bs = 0xC ∨ fieldSign bs = 0xD)

/-- The digits of a field as a number. -/
def fieldMagnitude (bs : List Byte) : Nat :=
  ((List.range (2 * bs.length - 1)).map fun j => (fieldDigit bs j).toNat * 10 ^ j).sum

/-- The number `dec(field)` of valid data (R325). -/
def fieldNumber (bs : List Byte) : Int := if fieldSign bs = 0xD then -fieldMagnitude bs else fieldMagnitude bs

/-- A byte moved within program memory. -/
def copyByte (dst src : Word) (s : State) : State := s.putByte dst.toNat (s.byteAt src.toNat)

/-- The bytes of a field in program memory, from the right end. -/
def fieldContent (f : Field) (s : State) : List Byte := (bytesOfField f).map fun a => s.byteAt a.toNat

/-- The operation has a second field (R321). -/
def twoFields : DecimalOp → Bool
  | .sftr | .sftl => false
  | .zadd | .addd | .subd | .cmpd | .movr | .movl | .comp => true

/-- The field that an operation writes: none for the compares, the source field for the shifts (R328, R337, R339). -/
def writtenBytes (op : DecimalOp) (reg1 reg2 : Reg) (o : DecOperands) (s : State) : List Word :=
  match op with
  | .cmpd | .comp => []
  | .sftr | .sftl => bytesOfField (sourceOf reg1 o s)
  | .zadd | .addd | .subd | .movr | .movl => bytesOfField (destOf reg2 o s)

/-- The second field of an operation: the destination field, or the source field where it has none. -/
def secondField (op : DecimalOp) (reg1 reg2 : Reg) (o : DecOperands) (s : State) : Field :=
  if twoFields op then destOf reg2 o s else sourceOf reg1 o s

/-- A class C instruction can run: the model has it, the registers that must name one do, the fields fit the address space,
and the fields and the temporary storage are program memory. -/
def DecimalReady (op : DecimalOp) (reg1 reg2 : Reg) (o : DecOperands) (s : State) : Prop :=
  s.par.model.isDecimal = true ∧ o.bit7 = false ∧ o.bit3 = false ∧ reg1 ≠ .r0 ∧ (twoFields op = true → reg2 ≠ .r0) ∧
    (sourceOf reg1 o s).len ≤ 65536 ∧ (secondField op reg1 reg2 o s).len ≤ 65536 ∧
    WordsInMemory s (storageWords s) ∧ BytesInMemory s (bytesOfField (sourceOf reg1 o s)) ∧
    BytesInMemory s (bytesOfField (secondField op reg1 reg2 o s))

/-- The signed number that a field holds after a sum v (R331, R332): the digits that fit; the sign of v, or the original
sign of a zero sum; either sign where a nonzero sum is truncated to zero. -/
def SumStored (v : Int) (len : Nat) (before after : List Byte) : Prop :=
  let m := v.natAbs % 10 ^ (2 * len - 1)
  after.length = len ∧ DigitsValid after ∧ fieldMagnitude after = m ∧
    (v = 0 → fieldSign after = fieldSign before) ∧ (0 < v ∧ m ≠ 0 → fieldSign after = 0xC) ∧
    (v < 0 ∧ m ≠ 0 → fieldSign after = 0xD) ∧ (v ≠ 0 ∧ m = 0 → fieldSign after = 0xC ∨ fieldSign after = 0xD)

/-- The byte number k of a field extended to the right with blanks (R341). -/
def extendedByte (f : Field) (s : State) (k : Nat) : Byte :=
  if k < f.len then s.byteAt (byteAddress f k).toNat else 0xA0

end Sys2Proof.Machine
end

