-- ==== Sys2Proof/Certificates/Slice0/Obligations.lean ====
section
/-! DEFINITION. The statements about the model, each from the rules of spec/ that its docstring names. A statement about an
instruction has as its conclusion the next state that the instruction answers; hypotheses are on the state and the operands.
`SameBut`, `SameRegsBut`, `SameMemoryBut` and `SameControl` (Safety) say what is unchanged. -/

open Sys2Proof Sys2Proof.Machine Host

/-! ## Encoding -/

/-- Decoding the bytes of a well-formed instruction gives it back, whatever follows. The encodings of LCPU and LKEY (decision
D20), of the bit operations with K (D21) and the third digit of the control words (D32) are the spec's own choice, which the
model follows: assumption log 30 (R100, R103, R104). -/
def Obligations.DecodeEncode : Prop :=
  ∀ (mdl : Model) (i : Instr) (rest : List Byte), wellFormed mdl i = true →
    decodeBytes mdl (encodeBytes i ++ rest) = .ok (i, rest)

/-- Encoding what was decoded gives the words back: no bit of an encoding is dropped but HALT's right byte, which is ignored;
and a decoded instruction is well formed, but for a class C second word with a 1 in a bit shown as 0. That the third digit of
the control words is decoded in full and HALT's byte alone is ignored is decision D32, assumption log 30; that such a class C
word traps is D4, assumption log 29 (R103, R104, R114, R123, R322). -/
def Obligations.EncodeDecode : Prop :=
  ∀ (mdl : Model) (w w2 : Word),
    (decode mdl w w2 = .halt ↔ w.extractLsb' 8 8 = 0) ∧
    (w.extractLsb' 8 8 ≠ 0 →
      code (decode mdl w w2) = ⟨w, if hasSecondWord mdl w then some w2 else none⟩) ∧
    (fieldC w ≠ 12 ∨ (w2.getLsbD 7 = false ∧ w2.getLsbD 3 = false) → wellFormed mdl (decode mdl w w2) = true)

/-- Words written out from the formats decode to their instructions; that the third digit of a control word is decoded in full
is decision D32, assumption log 30 (R103 to R120). -/
def Obligations.KnownWordsDecode : Prop :=
  decode .m1110 0x7018 0x0100 = .movwLoad .r1 ⟨false, some 0x0100, .r0⟩ ∧
  decode .m1110 0x2A9A 0x0040 = .addbStoreInc .r1 ⟨true, some 0x0040, .r2⟩ ∧
  decode .m1110 0x155C 0x0040 = .eorwStoreDec .r5 ⟨false, some 0x0040, .r4⟩ ∧
  decode .m1110 0x4921 0 = .subwReg .r2 .r1 ∧
  decode .m1110 0x492E 0x0100 = .subwLit .r2 .r6 0x0100 ∧
  decode .m1110 0x4ED7 0 = .cmpwImm .r5 7 ∧
  decode .m1110 0x4007 0 = .jump ⟨false, none, .r7⟩ ∧
  decode .m1110 0x40FB 0x0040 = .jsbr .r7 ⟨true, some 0x0040, .r3⟩ ∧
  decode .m1110 0x8AFF 0 = .bzef 0xFF ∧
  decode .m1110 0xA1A6 0 = .slllK .r2 6 ∧
  decode .m1110 0xA223 0 = .slloX .r2 .r3 ∧
  decode .m1110 0x09FF 0 = .stsm .relative 0xFF ∧
  decode .m1110 0x0805 0 = .enbl 5 ∧
  decode .m1110 0x08C0 0 = .waitD ∧
  decode .m1112A 0x081A 0x4000 = .jkey 2 0x4000 ∧
  decode .m1112A 0x4338 0x00FF = .cbitM .r3 .r0 0x00FF ∧
  decode .m1112A 0x479A 0 = .movn .r1 .r2 ∧
  decode .m1112A 0xA829 0 = .dlan .r2 .r1 ∧
  decode .m1112A 0xA8C1 0 = .dlaoK 2 1 ∧
  decode .m1112A 0xB338 0x0200 = .mult .r3 ⟨false, some 0x0200, .r0⟩ ∧
  decode .m1111A 0xC532 0x3304 = .cmpd .r3 .r2 ⟨3, 3, false, .r0, false, .r4⟩

/-- The first word alone tells whether a well-formed instruction has a second one (R104). -/
def Obligations.SecondWordFromFirst : Prop :=
  ∀ (mdl : Model) (i : Instr), wellFormed mdl i = true →
    hasSecondWord mdl (code i).first = (code i).second.isSome

/-- The encodings that the source says trap (R121, but for those that depend on the operand or the mask bits), and those
inside implemented classes to which it gives no instruction (R122), take the unimplemented-instruction trap; and no other word
is decoded as a "(trap)" row. That those of R122 trap is the spec's own decision D4, which the model follows: assumption log
29. For words that the spec also refuses (class C with no first field register and a 1 in a zero bit, class B with an odd AR and OP 6, 7 or bit
11) the trap comes first, by the order of assumption log 13; the entry is decision D9, assumption log 30 and 5, the status
after it D10, assumption log 6 (R102, R121, R122, R224, R342, R462). -/
def Obligations.ReservedEncodingsTrap : Prop :=
  ∀ (w w2 : Word) (s : State),
    (SourceTraps s.par.model w ∨ DecisionTraps s.par.model w w2 → BlockInMemory s .unimplemented →
      ∃ t, exec (decode s.par.model w w2) s = .next t ∧ Trapped w s s t) ∧
    ∀ v, decode s.par.model w w2 = .trap v → v = w ∧ (SourceTraps s.par.model w ∨ DecisionTraps s.par.model w w2)

/-- T = D, E or F in class 8 or 9 traps on every model. That they trap is the source's word; the entry is decision D9,
assumption log 30 and 5, the status after it D10, assumption log 6 (R224, R462, R472). -/
def Obligations.ReservedBranchesTrap : Prop :=
  ∀ (w w2 : Word) (s : State), fieldC w = 8 ∨ fieldC w = 9 → 13 ≤ (fieldT w).toNat → BlockInMemory s .unimplemented →
    ∃ t, exec (decode s.par.model w w2) s = .next t ∧ Trapped w s s t

/-- The instruction of a "(trap)" row stores its word, the status and the saved program counter in the level-5 block and
continues at the vector, with everything else as before. The order of the entry and what it saves are decision D9, assumption
log 30 and 5. The status after an entry has bit A set, and under the identity `ENTRY_STATUS` is the one before, bit A set:
D10, assumption log 6 (R462, R463, R472, R474, R476). -/
def Obligations.TrapRowsTrap : Prop :=
  ∀ (w : Word) (s : State),
    (BlockInMemory s .unimplemented → ∃ t, exec (.trap w) s = .next t ∧ Trapped w s s t) ∧
    ∀ l st, (entryStatus s.par l st).getLsbD 11 = true ∧
      (s.par.entryStatus = .identity → entryStatus s.par l st = st ||| 0x0800)

/-- An instruction whose row the processor's model does not have takes the unimplemented-instruction trap, precisely: nothing
else has changed; also, which models have the key instructions, are of the B series, decimal or scientific. The model as a
parameter is decision D1, the entry D9, assumption log 30 and 5, the status after it D10, assumption log 6 (R2, R3, R462,
R463). -/
def Obligations.UnimplementedOnModelTraps : Prop :=
  ∀ (i : Instr) (s : State),
    (implementedOn s.par.model i = false → BlockInMemory s .unimplemented →
      ∃ t, exec i s = .next t ∧ Trapped (code i).first s s t) ∧
    ∀ mdl : Model, (mdl.hasKey = true ↔ mdl ≠ .m1110) ∧ (mdl.isBSeries = true ↔ mdl ∈ [.m1110B, .m1111B, .m1112B]) ∧
      (mdl.isDecimal = true ↔ mdl ∈ [.m1111A, .m1111B]) ∧ (mdl.isScientific = true ↔ mdl ∈ [.m1112A, .m1112B])

/-! ## The step -/

/-- The state after reset is sound, its program counter is even and in program memory, and it runs. The values themselves
are the model's choice: assumption log 3 (R520 gives only these constraints). -/
def Obligations.ResetIsSound : Prop :=
  State.reset.Sound ∧ State.reset.pc.getLsbD 0 = false ∧ State.reset.run = .running ∧
    InMemory State.reset .word State.reset.pc

/-- Every step keeps a state sound: memory in its canonical form and below F000, bit A set, the pending requests a set, and no
wait without an enabled level. Bit A is decision D26, assumption log 12; the set of pending requests D11 and the wait D25,
assumption log 30 (R40, R61, R280, R481). -/
def Obligations.StepKeepsSound : Prop :=
  ∀ s t : State, s.Sound → step s = .next t → t.Sound

/-- When the bytes at the program counter decode to an instruction and no enabled request is pending, a step of a running
processor is that instruction, executed after the arrival of the step's input events. That requests are recognised here only
is decision D11, assumption log 30; the even program counter is D3, assumption log 11 (R29, R68, R483). -/
def Obligations.StepRunsDecoded : Prop :=
  ∀ (s : State) (i : Instr) (rest : List Byte),
    let u := arrive s
    u.run = .running → pickLevel u = none → u.pc.getLsbD 0 = false → InMemory u .word u.pc →
    (hasSecondWord u.par.model (u.wordAt u.pc) = true → InMemory u .word (u.pc + 2)) →
    decodeBytes u.par.model (wordBytes (u.wordAt u.pc) ++ wordBytes (u.wordAt (u.pc + 2))) = .ok (i, rest) →
    step s = exec i u

/-- A fetch at an odd program counter stops with its fault; a fetch at an even address where nothing answers takes the level-6
abort with the address. So does the fetch of a second word: what the instruction could write is then open, in a general
register instruction its indicators and, in classes 1, 2, 5 and 6, LP and the stepped register, in every other at most
registers, indicators, LP, the temporary storage and, for JKEY, the key, with which the entry's own accesses are then made (so
that the block must answer for every key). What exactly is open is the model's reading of R475, assumption log 9. The model's
choices: that a form which R431 or R322 refuses (class B with an odd register and an OP other than 3, class C with no first or
second field register) takes this abort and is not refused is assumption log 34, and that with AR = XR in classes
1, 2, 5 and 6 the one register is open is assumption log 33. The address saved after a failed first fetch is P or P + 2 where
`TRAP_SAVED_PC` says so, else open: D9, assumption log 5. That an odd program counter stops is decision D3, assumption log 11,
and the abort itself D15, assumption log 30; the entry is decision D9, assumption log 30 and 5, the status after it D10,
assumption log 6 (R29, R77, R162, R199, R464, R475, R478). -/
def Obligations.FetchStopsOrAborts : Prop :=
  ∀ s : State,
    let u := arrive s
    let w := u.wordAt u.pc
    u.run = .running → pickLevel u = none →
    (u.pc.getLsbD 0 = true → step s = .fault .oddProgramCounter) ∧
    (u.pc.getLsbD 0 = false → u.site u.pc = .nothing → BlockInMemory u .abort →
      ∃ info ret t, step s = .next t ∧ EntryDone .abort info ret u t ∧ info &&& 0xFFFE = u.pc ∧
        (u.par.trapSavedPc = .current → ret = u.pc) ∧ (u.par.trapSavedPc = .afterFirst → ret = u.pc + 2)) ∧
    (u.pc.getLsbD 0 = false → InMemory u .word u.pc → u.site (u.pc + 2) = .nothing → BlockInMemory u .abort →
      (∀ cls wd op ar m, w = (grCode cls wd op ar m).first → m.ext ≠ none →
        ∃ info ret v t, step s = .next t ∧ SavedPc u w ret ∧ EntryDone .abort info ret v t ∧ info &&& 0xFFFE = u.pc + 2 ∧
          SameBut (if autoStep cls = .none then [] else [m.xr]) (affected op ||| loopBit (autoStep cls)) [] u v) ∧
      (hasSecondWord u.par.model w = true → (fieldC w = 11 → fieldAr w ∉ [.r0, .r1]) →
        (fieldC w = 0 → fieldOp w ≠ 6 → ∀ k, BlockInMemory (u.setKey k) .abort) →
        ∃ info ret v t, step s = .next t ∧ SavedPc u w ret ∧ EntryDone .abort info ret v t ∧ info &&& 0xFFFE = u.pc + 2 ∧
          SameInputs u v ∧ (fieldC w ≠ 0 ∨ fieldOp w = 6 → v.key = u.key) ∧ SameDevices u v ∧
          SameBitsBut 0x078F u.st v.st ∧ SameMemoryBut (storageBytes u) u v))

/-! ## Memory and addresses -/

/-- A word written to program memory reads back, its left byte at the even address; a byte written reads back and leaves every
other byte, decision D13, assumption log 30 (R60, R62 to R67). -/
def Obligations.MemoryReadsBack : Prop :=
  ∀ (s : State) (a v : Word),
    (InMemory s .word a → ∃ t, busWrite .word a v s = .ok () t ∧ busRead .word a t = .ok v t ∧
      t.byteAt (a &&& 0xFFFE).toNat = v.extractLsb' 8 8 ∧ t.byteAt ((a &&& 0xFFFE).toNat + 1) = v.extractLsb' 0 8 ∧
      SameBut [] 0 (bytesOfWord a) s t) ∧
    (InMemory s .byte a → ∃ t, busWrite .byte a v s = .ok () t ∧ busRead .byte a t = .ok (v &&& 0x00FF) t ∧
      t.byteAt a.toNat = v.extractLsb' 0 8 ∧ SameBut [] 0 [a] s t)

/-- F000 and above belong to the `DEVICE` oracle: an answer gives the value or accepts the write, no answer aborts the
transfer; the registers, the status and, but for the reply's own block transfer, memory stay. The model's choices: that each
access is logged and takes the next reply of a script, and that a byte read takes the right byte of the reply, are assumption
log 21; that the logged key is `State.key` on every model, the 1110 basic too, is assumption log 22. No rule states these
clauses; the spec's part, with the open parameters of its decisions D15 and D28, is that an oracle answers or does not, and
that the access carries the key (R77, R78, R80). -/
def Obligations.DeviceAccesses : Prop :=
  ∀ (s : State) (wd : Width) (a v value : Word) (transfer : List Cell) (rest : List DeviceReply),
    (0xF000 ≤ a.toNat → s.site a = .device) ∧
    (s.site (busAddress wd a) = .device →
      let logged := fun (data : Option Word) (t : State) =>
        t.deviceScript = rest ∧ t.deviceLog = ⟨busAddress wd a, wd, s.key, data⟩ :: s.deviceLog ∧ t.regs = s.regs ∧
          t.st = s.st ∧ SameControl s t
      (s.deviceScript = .noAnswer :: rest →
        (∃ t, busRead wd a s = .abort (busAddress wd a) wd t ∧ logged none t ∧ SameMemory s t) ∧
        ∃ t, busWrite wd a v s = .abort (busAddress wd a) wd t ∧ logged (some (dataOf wd v)) t ∧ SameMemory s t) ∧
      (s.deviceScript = .answer value transfer :: rest →
        (∃ t, busRead wd a s = .ok (dataOf wd value) t ∧ logged none t ∧ (transfer = [] → SameMemory s t)) ∧
        ∃ t, busWrite wd a v s = .ok () t ∧ logged (some (dataOf wd v)) t ∧ (transfer = [] → SameMemory s t)))

/-- Direct addressing: M is the sum of W2 and the index, decremented first in classes 1 and 5; the register is stepped by the
operand's size; with XR = 0 nothing is indexed and the program counter is stepped from its value as data; which classes step,
and how. The value read as data is the spec's decision D2, assumption log 2 and 18; sums are modulo 2^16, D31, assumption log
30 (R141, R146 to R148, R156, R159, R160 rows 1 to 7). -/
def Obligations.DirectAddresses : Prop :=
  ∀ (c : Ctx) (auto : AutoStep) (wd : Width) (m : MemOp) (s : State), noAddress m = false → m.ind = false →
    effectiveAddress c auto wd m s = .ok (developed auto wd m s) (stepped c auto wd m s) ∧
    (m.xr ≠ .r0 → stepped c auto wd m s = if auto = .none then s else s.setReg m.xr (s.reg m.xr + stepAmount auto wd)) ∧
    (m.xr = .r0 → auto ≠ .none → s.par.pcOperand = .next →
      stepped c auto wd m s = s.setPc (c.next + stepAmount auto wd)) ∧
    autoStep .storeDec = .dec ∧ autoStep .storeInc = .inc ∧ autoStep .store = .none ∧
    autoStep .loadDec = .dec ∧ autoStep .loadInc = .inc ∧ autoStep .load = .none

/-- Indirect addressing in program memory: in word mode M is the first pointer of the chain whose bit 0 is 0, at the latest the
fifteenth; in byte mode M is the first pointer. That fifteen reads are the most is the spec's own reading, decision D24, which the
model follows: assumption log 30 (R153, R154, R160 rows 8 to 14). -/
def Obligations.IndirectAddresses : Prop :=
  ∀ (c : Ctx) (auto : AutoStep) (m : MemOp) (s : State) (n : Nat), noAddress m = false → m.ind = true → n ≤ 14 →
    (let d0 := developed auto .word m s;
      InMemory s .word d0 → (∀ k < n, (pointer s d0 k).getLsbD 0 = true ∧ InMemory s .word (pointer s d0 k)) →
      (pointer s d0 n).getLsbD 0 = false →
      effectiveAddress c auto .word m s = .ok (pointer s d0 n) (stepped c auto .word m s)) ∧
    (let d0 := developed auto .byte m s;
      InMemory s .word d0 →
      effectiveAddress c auto .byte m s = .ok (pointer s d0 0) (stepped c auto .byte m s))

/-- A word-mode chain whose fifteen reads are of program memory and whose fifteenth pointer, wherever it points, still has bit
0 = 1 takes the unimplemented-instruction trap, in every instruction that can have one: the general register instructions of
classes 1, 2, 3, 5, 6, 7, JUMP, JSBR, FCLW and class B. An autodecrement has been applied, an autoincrement has not, and
nothing else has changed. That the limit is met at the fifteenth is the spec's own reading, decision D24, which the model
follows: assumption log 30; the entry is decision D9, assumption log 30 and 5, the status after it D10, assumption log 6
(R154, R462, R463). -/
def Obligations.IndirectLimitTraps : Prop :=
  ∀ (i : Instr) (auto : AutoStep) (m : MemOp) (opened : List Reg) (mask : Word) (s : State),
    noAddress m = false → m.ind = true → DevelopsAddress s.par.model i auto .word m opened mask →
    let c := contextOf (code i) s
    let d0 := developed auto .word m s
    let u := if auto = .dec then stepped c .dec .word m (startOf (code i) s) else startOf (code i) s
    (∀ k < 15, InMemory s .word (readAddress s d0 k) ∧ (pointer s d0 k).getLsbD 0 = true) →
    BlockInMemory s .unimplemented →
    ∃ t, exec i s = .next t ∧ Trapped (code i).first s u t

/-- E = 0 with XR = 0 takes the unimplemented-instruction trap in every instruction that develops an address, before anything
has changed. For class B with AR = 3, 5, 7 and an OP other than 3, which R431 refuses, the trap comes first, by the order of
assumption log 13; the entry is decision D9, assumption log 30 and 5, the status after it D10, assumption log 6 (R143,
R463). -/
def Obligations.NoAddressTraps : Prop :=
  ∀ (i : Instr) (m : MemOp) (s : State), noAddress m = true → BlockInMemory s .unimplemented →
    (∃ cls wd op ar, i = grInstr cls wd op ar m) ∨ i = .jump m ∨ (∃ ar, i = .jsbr ar m) ∨
      (∃ ar, i = .fclw ar m ∨ i = .fclb ar m) ∨ (∃ op ar, i = fixedInstr op ar m) →
    ∃ t, exec i s = .next t ∧ Trapped (code i).first s s t

/-! ## General register instructions -/

/-- Classes 5, 6, 7, all operations and widths: the memory operand, a byte widened with zeros, operates on the accumulator,
register AR as it stands after address development; NG, ZE, OD, CY, OV, EQ, GT by the operation, LP and the index register by
the class; nothing else changes. The spec's own decisions, which the model follows, assumption log 30: CY = 1 after SUB means
no borrow, D5; with AR = XR the accumulator operand is the stepped value, D16. LP is open where the result overwrites the
stepped register, D34, assumption log 15; register 0 as the accumulator gives PC_OPERAND, D2, assumption log 2 and 18 (R157,
R158, R170, R171, R172, R175 to R177, R182 to R184, R193). -/
def Obligations.LoadsComplete : Prop :=
  ∀ (cls : GrClass) (wd : Width) (op : GrOp) (ar : Reg) (m : MemOp) (s s1 s2 : State) (a src : Word),
    cls ∈ [GrClass.load, .loadInc, .loadDec] →
    let code := grCode cls wd op ar m
    let c := contextOf code s
    effectiveAddress c (autoStep cls) wd m (startOf code s) = .ok a s1 → busRead wd a s1 = .ok src s2 →
    ∃ t, exec (grInstr cls wd op ar m) s = .next t ∧
      let tgt := (accumulator c (autoStep cls) ar m.xr s2).1
      (ar ≠ .r0 → tgt = s1.reg ar) ∧
      (stores op = true → OpResult op src tgt (t.reg ar)) ∧
      OpFlags op src tgt s.st t.st ∧
      SameBitsBut (affected op ||| loopBit (autoStep cls)) s.st t.st ∧
      (stores op = false ∨ ar ≠ m.xr →
        t.reg m.xr = s1.reg m.xr ∧ (autoStep cls ≠ .none → flag t.st .lp = decide (s1.reg m.xr = 0))) ∧
      (stores op = false ∨ ar ≠ .r0 → t.pc = s1.pc) ∧
      SameRegsBut ((if stores op then [ar] else []) ++ if autoStep cls = .none then [] else [m.xr]) s t ∧
      SameControl s t ∧ QuietMemoryBut [] s t

/-- Classes 1, 2, 3, all operations and widths, on an operand in program memory: the accumulator, register AR as it stands
after address development, operates on the memory operand; the result goes to the word, or to the one byte, at the effective
address; the indicators are the operation's, open after a byte operation whose register has a left byte; no register but a
stepped index register changes. The spec's own decisions, which the model follows, assumption log 30: CY = 1 after SUB means
no borrow, D5; a byte operation computes with the whole register and its indicators are open where the left byte is not 0, D6
with assumption log 15; with AR = XR the operand is the stepped value, D16; the byte store touches one byte, D13. LP of the
stepped register is R158's (D34 concerns results in registers only); register 0 as the accumulator gives PC_OPERAND, D2,
assumption log 2 and 18 (R157, R158, R170, R171, R173, R175 to R177, R181, R185, R188, R189). -/
def Obligations.StoresComplete : Prop :=
  ∀ (cls : GrClass) (wd : Width) (op : GrOp) (ar : Reg) (m : MemOp) (s s1 : State) (a : Word),
    cls ∈ [GrClass.store, .storeInc, .storeDec] →
    let code := grCode cls wd op ar m
    let c := contextOf code s
    effectiveAddress c (autoStep cls) wd m (startOf code s) = .ok a s1 → InMemory s1 wd a →
    ∃ t, exec (grInstr cls wd op ar m) s = .next t ∧
      let src := (accumulator c (autoStep cls) ar m.xr s1).1
      let tgt := s1.fetchData wd a
      (ar ≠ .r0 → src = s1.reg ar) ∧
      (stores op = true → ∃ r, OpResult op src tgt r ∧ t.fetchData wd a = if wd = .byte then r &&& 0x00FF else r) ∧
      (wd = .word ∨ src.extractLsb' 8 8 = 0 → OpFlags op src tgt s.st t.st) ∧
      SameBitsBut (affected op ||| loopBit (autoStep cls)) s.st t.st ∧
      (autoStep cls ≠ .none → flag t.st .lp = decide (s1.reg m.xr = 0)) ∧
      t.reg m.xr = s1.reg m.xr ∧ t.pc = s1.pc ∧
      SameRegsBut (if autoStep cls = .none then [] else [m.xr]) s t ∧
      SameControl s t ∧ QuietMemoryBut (if stores op then transferBytes wd a else []) s t

/-- Class 4, all operations: register XR, the literal plus register XR, or K operates on the accumulator. CY = 1 after SUB
means no borrow: the spec's own decision D5, which the model follows, assumption log 30. A form that reads register 0
completes with the value of PC_OPERAND, a free value where that is unstated: D2, assumption log 2 (R170, R171, R175, R190 to
R193). -/
def Obligations.AccumulatorFormsComplete : Prop :=
  ∀ (op : GrOp) (ar xr : Reg) (lit : Word) (k : BitVec 4) (s : State),
    (∃ t src tgt, exec (accRegInstr op ar xr) s = .next t ∧ ReadsAs (accRegCode op ar xr) xr s src ∧
      ReadsAs (accRegCode op ar xr) ar s tgt ∧ RegisterDone op ar src tgt (s.pc + 2) s t) ∧
    (∃ t tgt, exec (accLitInstr op ar xr lit) s = .next t ∧ ReadsAs (accLitCode op ar xr lit) ar s tgt ∧
      RegisterDone op ar (lit + if xr = .r0 then 0 else s.reg xr) tgt (s.pc + 4) s t) ∧
    (∃ t tgt, exec (accImmInstr op ar k) s = .next t ∧ ReadsAs (accImmCode op ar k) ar s tgt ∧
      RegisterDone op ar (BitVec.ofNat 16 k.toNat) tgt (s.pc + 2) s t)

/-- JUMP puts the effective address in the program counter; JSBR also puts NEXT in its register, after the address is
developed (decision D16, assumption log 30); nothing else changes (R186, R187). -/
def Obligations.JumpsComplete : Prop :=
  ∀ (ar : Reg) (m : MemOp) (s s1 : State) (a : Word),
    (effectiveAddress (contextOf (jumpCode .r0 m) s) .none .word m (startOf (jumpCode .r0 m) s) = .ok a s1 →
      ∃ t, exec (.jump m) s = .next t ∧ t.pc = a ∧ t.st = s.st ∧ SameRegsBut [] s t ∧ SameControl s t ∧
        QuietMemoryBut [] s t) ∧
    (ar ≠ .r0 →
      effectiveAddress (contextOf (jumpCode ar m) s) .none .word m (startOf (jumpCode ar m) s) = .ok a s1 →
      ∃ t, exec (.jsbr ar m) s = .next t ∧ t.pc = a ∧
        t.reg ar = (if m.ext = none then s.pc + 2 else s.pc + 4) ∧ t.st = s.st ∧ SameRegsBut [ar] s t ∧
        SameControl s t ∧ QuietMemoryBut [] s t)

/-- An operand read of a load at an address where nothing answers takes the level-6 abort: the block holds the address, and
what the load could write is open: its indicators, the accumulator where it stores a result, and in classes 5 and 6 LP and the
stepped register. A direct class 7 load has changed nothing: that reading of vector A13 and R77 is assumption log 9; the abort
itself is decision D15, assumption log 30; the entry is decision D9, assumption log 30 and 5, the status after it D10,
assumption log 6 (R77, R464, R475, R478). -/
def Obligations.AbsentOperandAborts : Prop :=
  ∀ (cls : GrClass) (wd : Width) (op : GrOp) (ar : Reg) (m : MemOp) (s s1 : State) (a : Word),
    cls ∈ [GrClass.load, .loadInc, .loadDec] →
    let code := grCode cls wd op ar m
    effectiveAddress (contextOf code s) (autoStep cls) wd m (startOf code s) = .ok a s1 →
    s1.site (busAddress wd a) = .nothing → BlockInMemory s1 .abort →
    ∃ info ret u t, exec (grInstr cls wd op ar m) s = .next t ∧ SavedPc s code.first ret ∧ EntryDone .abort info ret u t ∧
      info &&& 0xFFFE = a &&& 0xFFFE ∧ (wd = .byte → info = a) ∧ (cls = .load → m.ind = false → u = s1) ∧
      SameBut ((if stores op then [ar] else []) ++ if autoStep cls = .none then [] else [m.xr])
        (affected op ||| loopBit (autoStep cls)) [] s1 u

/-! ## Branches -/

/-- A taken branch sets the program counter to P + 2 D, one not taken to P + 2, and nothing else changes; class 9 is taken when
the condition holds, class 8 when it does not (R221, R222, R223). -/
def Obligations.BranchesComplete : Prop :=
  ∀ (cond : Cond) (d : BitVec 8) (s : State),
    let target := s.pc + BitVec.ofInt 16 (2 * d.toInt)
    fieldC (code (branchInstr true cond d)).first = 9 ∧ fieldC (code (branchInstr false cond d)).first = 8 ∧
    exec (branchInstr true cond d) s = .next (s.setPc (if condHolds s.st cond then target else s.pc + 2)) ∧
    exec (branchInstr false cond d) s = .next (s.setPc (if condHolds s.st cond then s.pc + 2 else target)) ∧
    exec (.brun d) s = .next (s.setPc target) ∧ exec (.nopr d) s = .next (s.setPc (s.pc + 2))

/-- The thirteenth condition, LT, is neither GT nor EQ; the other twelve are UN and one status bit each (R30, R220). -/
def Obligations.BranchConditions : Prop :=
  ∀ st : Word,
    condHolds st .eq = st.getLsbD 0 ∧ condHolds st .gt = st.getLsbD 1 ∧ condHolds st .ov = st.getLsbD 2 ∧
    condHolds st .cy = st.getLsbD 3 ∧ condHolds st .f1 = st.getLsbD 4 ∧ condHolds st .f2 = st.getLsbD 5 ∧
    condHolds st .f3 = st.getLsbD 6 ∧ condHolds st .lp = st.getLsbD 7 ∧ condHolds st .od = st.getLsbD 8 ∧
    condHolds st .ze = st.getLsbD 9 ∧ condHolds st .ng = st.getLsbD 10 ∧
    condHolds st .lt = (!st.getLsbD 1 && !st.getLsbD 0)

/-! ## Shifts and normalizes -/

/-- The eight single shifts, count K or the low four bits of a register: the register holds the shift, arithmetic shift or
rotate (through CY for the linked ones) of its value; CY is the last bit shifted out, OV is set where the signed product by
2^N does not fit, NG, ZE, OD are the result's. For N = 0 the register is unchanged, NG, ZE, OD are written from it, CY and OV
keep their values and SRAO resets CY: the spec's own decision D7, which the model follows, assumption log 30. Register 0 as
count or operand gives PC_OPERAND: D2, assumption log 2 and 18. That register 0 as operand is written with it for N = 0 too, so
that the program counter need not go on to NEXT, is the model's choice, assumption log 35 (R240 to R252). -/
def Obligations.SingleShiftsComplete : Prop :=
  ∀ (op : ShiftOp) (ar xr : Reg) (k : BitVec 4) (s : State),
    (∃ t, exec (shiftKInstr op ar k) s = .next t ∧ ShiftDone (shiftKCode op ar k) op ar k.toNat s t) ∧
    (∃ t count, exec (shiftXInstr false op ar xr) s = .next t ∧ ReadsAs (shiftXCode false op ar xr) xr s count ∧
      ShiftDone (shiftXCode false op ar xr) op ar (count.toNat % 16) s t)

/-- The four single normalizes: the register is scaled by 2^N until its bits meet the stop condition, N at most 15, and N is
added to register XR after the shifted value is written; zero sets only NG, ZE, OD. With XR = AR the count is added to the
shifted value and the indicators are those from before: the spec's own decision D35, which the model follows, assumption log
30. With XR = 0 the count is added to the program counter read as data (PC_OPERAND), a count of 0 leaves it, and AR = 0
normalizes it as data: D2, assumption log 2 and 18. That AR = 0 is written with that value when it is already normalized is the
model's choice, assumption log 35 (R391 to R396). -/
def Obligations.SingleNormalizesComplete : Prop :=
  ∀ (op : NormOp) (ar xr : Reg) (s : State), s.par.model.isScientific = true →
    let code := normalizeCode false op ar xr
    ∃ t a, exec (normalizeInstr false op ar xr) s = .next t ∧ ReadsAs code ar s a ∧
      (a = 0 → NzoOf 0 t.st ∧ t.pc = s.pc + 2 ∧ SameBut [] 0x0700 [] s t) ∧
      (a ≠ 0 → ∃ (n : Nat) (r : Word), n ≤ 15 ∧ Normalized op n a r ∧ NzoOf r t.st ∧
        (xr = ar → t.reg ar = r + BitVec.ofNat 16 n) ∧
        (xr ≠ ar → t.reg ar = r ∧ (xr ≠ .r0 → t.reg xr = s.reg xr + BitVec.ofNat 16 n) ∧
          (xr = .r0 → CountedPc code n s t)) ∧
        (ar ≠ .r0 → xr ≠ .r0 → t.pc = s.pc + 2) ∧ SameBut [ar, xr] 0x0700 [] s t)

/-- The four double normalizes, on a pair: as the single ones over the pair's number, N at most 31; the arithmetic ones ignore
S' and adjust it, also for zero. The spec's own decision D35, which the model follows, assumption log 30: S' is cleared for a
zero operand too, DRAN adds its count and sets NG, ZE, OD like the others, and with XR in the pair the count is added to the
shifted value. With XR = 0 the count is added to the program counter read as data: D2, assumption log 2 and 18. That 8000 0000
is the number -2^30 is R50's own extension of the printed range (R50, R51, R391, R392, R397 to R400). -/
def Obligations.DoubleNormalizesComplete : Prop :=
  ∀ (op : NormOp) (ar xr : Reg) (s : State), s.par.model.isScientific = true → isPair ar = true →
    let x := pairOf ar s
    ∃ t, exec (normalizeInstr true op ar xr) s = .next t ∧
      (PairZero op x → pairOf ar t = ⟨0, 0⟩ ∧ Nzo2Of ⟨0, 0⟩ t.st ∧ t.pc = s.pc + 2 ∧
        SameBut [pairHigh ar, pairLow ar] 0x0700 [] s t) ∧
      (¬PairZero op x → ∃ (n : Nat) (y : DoubleWord), n ≤ 31 ∧ DoubleNormalized op n x y ∧ Nzo2Of y t.st ∧
        t.reg (pairHigh ar) = (if xr = pairHigh ar then y.h + BitVec.ofNat 16 n else y.h) ∧
        t.reg (pairLow ar) = (if xr = pairLow ar then y.l + BitVec.ofNat 16 n else y.l) ∧
        (xr ∉ [.r0, pairHigh ar, pairLow ar] → t.reg xr = s.reg xr + BitVec.ofNat 16 n) ∧
        (xr = .r0 → CountedPc (normalizeCode true op ar xr) n s t) ∧ (xr ≠ .r0 → t.pc = s.pc + 2) ∧
        SameBut [pairHigh ar, pairLow ar, xr] 0x0700 [] s t)

/-- The eight double shifts, on a pair, count K or the low five bits of a register: the arithmetic ones move the 31 bits and
adjust S' unless the count is 0, the logical ones move all 32 bits, the linked ones rotate them through CY. That the count is
the low five bits of the register is the spec's own decision D17; that with N = 0 nothing moves, S' is not adjusted, NG, ZE,
OD are written and CY and OV kept is its decision D7; that only a pair is given a behaviour, D30: the model follows them,
assumption log 30 and, for the pair, 13. With XR = 0 the count is PC_OPERAND, a free value where that is unstated: D2,
assumption log 2 (R405 to R415). -/
def Obligations.DoubleShiftsComplete : Prop :=
  ∀ (op : ShiftOp) (ar xr : Reg) (pair : BitVec 2) (k : BitVec 5) (s : State), s.par.model.isScientific = true →
    (pairReg 1 = .r2 ∧ pairReg 2 = .r4 ∧ pairReg 3 = .r6) ∧
    (pair ≠ 0 → ∃ t, exec (doubleShiftKInstr op pair k) s = .next t ∧
      DoubleShiftDone op (pairReg pair) k.toNat s t) ∧
    (isPair ar = true → ∃ t count, exec (shiftXInstr true op ar xr) s = .next t ∧
      ReadsAs (shiftXCode true op ar xr) xr s count ∧ DoubleShiftDone op ar (count.toNat % 32) s t)

/-! ## Control -/

/-- HALT halts with the program counter at NEXT; a halted processor executes nothing until RUN, whatever requests arrive; RUN
lets it continue there. The model's choices: that a step of a halted processor answers next, with the state in which the
step's input events have arrived, is assumption log 25 (among those events are writes of its registers by another master,
assumption log 19); that RUN and the requests are the events at the head of `State.inputs` is assumption log 26. That HALT
leaves NEXT in the program counter and RUN is an input event is decision D27, assumption log 30 (R271, R485). -/
def Obligations.HaltAndResume : Prop :=
  ∀ s : State,
    exec .halt s = .next ((s.setPc (s.pc + 2)).setRun .halted) ∧
    ((arrive s).run = .halted → step s = .next (arrive s)) ∧
    (s.run = .halted → (∀ events ∈ s.inputs.head?, Input.run ∉ events) → (arrive s).run = .halted) ∧
    (s.run = .halted → (∃ events ∈ s.inputs.head?, Input.run ∈ events) → (arrive s).run = .running)

/-- RSTS, word 0200 + F, resets and SETS, word 0280 + F, sets exactly the status bits of F, within bits 6 to 0; nothing else
changes (R272, R273). -/
def Obligations.StatusBitsSetAndReset : Prop :=
  ∀ (f : BitVec 7) (s : State),
    code (.rsts f) = ⟨0x0200 ||| f.setWidth 16, none⟩ ∧ code (.sets f) = ⟨0x0280 ||| f.setWidth 16, none⟩ ∧
    (∃ t, exec (.rsts f) s = .next t ∧ (∀ j, t.st.getLsbD j = (s.st.getLsbD j && !f.getLsbD j)) ∧
      t.pc = s.pc + 2 ∧ SameBut [] 0x007F [] s t) ∧
    (∃ t, exec (.sets f) s = .next t ∧ (∀ j, t.st.getLsbD j = (s.st.getLsbD j || f.getLsbD j)) ∧
      t.pc = s.pc + 2 ∧ SameBut [] 0x007F [] s t)

/-- ENBL, word 0800 + K, resets and DSBL, word 0880 + K, sets the mask bits of K: bit j of K is status bit 12 + j, and a level
whose mask bit is 1 is not taken; nothing else changes (R275, R276, R277). -/
def Obligations.LevelsEnabledAndDisabled : Prop :=
  ∀ (k : BitVec 4) (s : State),
    (∀ l, s.st.getLsbD (11 + levelNumber l) = true → pickLevel s ≠ some l) ∧
    code (.enbl k) = ⟨0x0800 ||| k.setWidth 16, none⟩ ∧ code (.dsbl k) = ⟨0x0880 ||| k.setWidth 16, none⟩ ∧
    (∃ t, exec (.enbl k) s = .next t ∧
      (∀ j < 4, t.st.getLsbD (12 + j) = (s.st.getLsbD (12 + j) && !k.getLsbD j)) ∧
      t.pc = s.pc + 2 ∧ SameBut [] 0xF000 [] s t) ∧
    (∃ t, exec (.dsbl k) s = .next t ∧ (∀ j < 4, t.st.getLsbD (12 + j) = (s.st.getLsbD (12 + j) || k.getLsbD j)) ∧
      t.pc = s.pc + 2 ∧ SameBut [] 0xF000 [] s t)

/-- ENBW, DSBW and WAIT update the mask bits and wait; an enabled request that is pending already ends the wait at once, as it
would later: level 4 is taken with P saved, levels 1 to 3 make the processor run on at NEXT, the request still pending; with
all four levels masked they trap instead, saving the updated status. That the wake by levels 1 to 3 consumes nothing, and that
ENBW and DSBW too save P for level 4, is the spec's own decision D25, on which R280 lets no proof depend unsaid: assumption
log 30. The model's choices: that the program counter of a waiting processor is the instruction's own address P is assumption
log 25 (R280 assigns it none); that the trap saves P whatever `TRAP_SAVED_PC` is, is assumption log 5; what an entry stores is
D9, assumption log 30 and 5, the status after it D10, assumption log 6 (R278 to R281, R463, R474, R485). -/
def Obligations.WaitFamilyCompletes : Prop :=
  ∀ (k : BitVec 4) (s : State) (st' : Word), SameBitsBut 0xF000 s.st st' →
    (k ≠ 0 → (∀ j < 4, st'.getLsbD (12 + j) = (s.st.getLsbD (12 + j) && !k.getLsbD j)) →
      WaitOrTrap (0x0840 + BitVec.ofNat 16 k.toNat) st' s (exec (.enbw k) s)) ∧
    (k ≠ 0 → (∀ j < 4, st'.getLsbD (12 + j) = (s.st.getLsbD (12 + j) || k.getLsbD j)) →
      WaitOrTrap (0x08C0 + BitVec.ofNat 16 k.toNat) st' s (exec (.dsbw k) s)) ∧
    WaitOrTrap 0x0840 s.st s (exec .waitE s) ∧ WaitOrTrap 0x08C0 s.st s (exec .waitD s)

/-- The address of a control instruction with a D field: word D of memory, or D words from the instruction (R105, R106,
R274). -/
def Obligations.DirectFieldAddresses : Prop :=
  ∀ (code : Code) (d : BitVec 8) (s : State),
    directAddress (contextOf code s) .absolute d = BitVec.ofNat 16 (2 * d.toNat) ∧
    directAddress (contextOf code s) .relative d = s.pc + BitVec.ofInt 16 (2 * d.toInt)

/-- STSM stores the status register, bit A as 1, and changes nothing else. That bit A is stored as 1 is decision D26,
assumption log 12 (R40, R282). -/
def Obligations.StatusStoreCompletes : Prop :=
  ∀ (md : AddrMode) (d : BitVec 8) (s : State),
    let a := directAddress (contextOf (directCode .stsm md d) s) md d
    InMemory s .word a →
    ∃ t, exec (.stsm md d) s = .next t ∧ t.wordAt a = s.st ||| 0x0800 ∧ t.pc = s.pc + 2 ∧
      SameBut [] 0 (bytesOfWord a) s t

/-- REGM stores registers 1 to 7 in the seven words from M and MREG loads them from there, the words being M, M + 2, ... M +
12; nothing else changes. The ascending order of the transfers is R283's own, decision D13, assumption log 30 (R283, R286). -/
def Obligations.RegisterBlocksComplete : Prop :=
  ∀ (md : AddrMode) (d : BitVec 8) (s : State),
    registers1to7 = [.r1, .r2, .r3, .r4, .r5, .r6, .r7] ∧
    (∀ a, sevenWords a = [a, a + 2, a + 4, a + 6, a + 8, a + 10, a + 12]) ∧
    (let words := sevenWords (directAddress (contextOf (directCode .regm md d) s) md d);
      WordsInMemory s words →
      ∃ t, exec (.regm md d) s = .next t ∧ (∀ p ∈ registers1to7.zip words, t.wordAt p.2 = s.reg p.1) ∧
        t.pc = s.pc + 2 ∧ SameBut [] 0 (words.flatMap bytesOfWord) s t) ∧
    (let words := sevenWords (directAddress (contextOf (directCode .mreg md d) s) md d);
      WordsInMemory s words →
      ∃ t, exec (.mreg md d) s = .next t ∧ (∀ p ∈ registers1to7.zip words, t.reg p.1 = s.wordAt p.2) ∧
        t.pc = s.pc + 2 ∧ SameBut registers1to7 0 [] s t)

/-- MSTS loads the status register, RETN the status register and the program counter; a status word with bit A clear is
refused, which is the spec's own decision D26, assumption log 12; nothing else changes (R40, R284, R285). -/
def Obligations.StatusLoadsComplete : Prop :=
  ∀ (md : AddrMode) (d : BitVec 8) (s : State),
    (let a := directAddress (contextOf (directCode .msts md d) s) md d;
      InMemory s .word a →
      exec (.msts md d) s =
        if (s.wordAt a).getLsbD 11 then .next ((s.setPc (s.pc + 2)).setSt (s.wordAt a))
        else .refused .activeBitCleared) ∧
    (let a := directAddress (contextOf (directCode .retn md d) s) md d;
      InMemory s .word a → InMemory s .word (a + 2) →
      exec (.retn md d) s =
        if (s.wordAt a).getLsbD 11 then .next ((s.setSt (s.wordAt a)).setPc (s.wordAt (a + 2)))
        else .refused .activeBitCleared)

/-- A RETN whose M is the second word of a level's block undoes the entry of that level: from any state that still holds the
block as the entry left it, the status register and the program counter are what they were. What the entry stores where is
decision D9, assumption log 30 and 5; the premise on bit A is D26, assumption log 12 (R473, R490). -/
def Obligations.ReturnUndoesEntry : Prop :=
  ∀ (l : Level) (info ret : Word) (s t u : State) (d : BitVec 8), BlockInMemory s l → active s.st = true →
    takeLevel l info ret s = .next t →
    (∀ a ∈ bytesOfWord (blockBase s.par.cpuId l + 2) ++ bytesOfWord (blockBase s.par.cpuId l + 4),
      u.byteAt a.toNat = t.byteAt a.toNat) →
    u.par = s.par → u.key = s.key → BitVec.ofNat 16 (2 * d.toNat) = blockBase s.par.cpuId l + 2 →
    exec (.retn .absolute d) u = .next ((u.setSt s.st).setPc ret)

/-- FCLW and FCLB: on the B series the operand goes to the register and memory is cleared, on the A series both are cleared,
on the 1110 basic they trap; no indicator changes. That no indicator changes and that FCLB leaves the byte in the right half
with the left half zero is the spec's own decision D8; that the A series only writes (no read transfer) is R292's own reading:
the model follows them, assumption log 30 and 23; AR = 0 writes the program counter, assumption log 18. On the 1110 basic the
entry is decision D9, assumption log 30 and 5, the status after it D10, assumption log 6 (R289 to R292). -/
def Obligations.FetchAndClearCompletes : Prop :=
  ∀ (wd : Width) (ar : Reg) (m : MemOp) (s : State),
    let i := match wd with | .word => Instr.fclw ar m | .byte => Instr.fclb ar m
    let code := fetchClearCode wd ar m
    (s.par.model = .m1110 → BlockInMemory s .unimplemented →
      ∃ t, exec i s = .next t ∧ Trapped code.first s s t) ∧
    ∀ (s1 : State) (a : Word), s.par.model ≠ .m1110 →
      effectiveAddress (contextOf code s) .none wd m (startOf code s) = .ok a s1 → InMemory s1 wd a →
      ∃ t, exec i s = .next t ∧
        t.reg ar = (if s.par.model.isBSeries then s1.fetchData wd a else 0) ∧ t.fetchData wd a = 0 ∧
        t.st = s.st ∧ (ar ≠ .r0 → t.pc = (contextOf code s).next) ∧ SameRegsBut [ar] s t ∧ SameControl s t ∧
        QuietMemoryBut (transferBytes wd a) s t

/-- SKEY writes the key bits, JKEY the key bits and the program counter, and nothing else changes (R295, R296). -/
def Obligations.KeyStoresComplete : Prop :=
  ∀ (k : BitVec 2) (target : Word) (s : State),
    (s.par.model ≠ .m1110 → exec (.skey k) s = .next ((s.setPc (s.pc + 2)).setKey k)) ∧
    (s.par.model.isScientific = true → exec (.jkey k target) s = .next ((s.setKey k).setPc target))

/-- LCPU, word 0820 + XR, loads 32 times the processor number and LKEY, word 0830 + XR, the key bits, right justified, with no
indicator changed; XR = 0 is refused. The words and the refusal are the spec's own decision D20 ("This spec takes", "this spec
refuses it"), which the model follows: assumption log 13 for the refusal, 30 for the words (R116, R297, R298). -/
def Obligations.ProcessorLoadsComplete : Prop :=
  ∀ (xr : Reg) (s : State), s.par.model.isScientific = true →
    code (.lcpu xr) = ⟨0x0820 ||| xr.bits.setWidth 16, none⟩ ∧ code (.lkey xr) = ⟨0x0830 ||| xr.bits.setWidth 16, none⟩ ∧
    (xr ≠ .r0 →
      exec (.lcpu xr) s = .next ((s.setPc (s.pc + 2)).setReg xr (BitVec.ofNat 16 (32 * s.par.cpuId.toNat))) ∧
      exec (.lkey xr) s = .next ((s.setPc (s.pc + 2)).setReg xr (BitVec.ofNat 16 s.key.toNat))) ∧
    exec (.lcpu .r0) s = .refused .processorRegisterTarget ∧ exec (.lkey .r0) s = .refused .processorRegisterTarget

/-! ## Bit manipulation and moves -/

/-- The six bit operations in their three forms: CY tells whether a designated bit was 1 before; the register is changed as
the operation says, with NG, ZE, OD from it; TBIT changes no register and leaves NG, ZE, OD open. That NG, ZE and OD are
always written, and open after TBIT, is the spec's own reading of "may alter", decision D22, which the model follows:
assumption log 30 and 15. Register 0 as operand or bit number gives PC_OPERAND: D2, assumption log 2. That RBIT, SBIT
and CBIT of register 0 write it also where no bit is designated is the model's choice, assumption log 35 (R360 to R369). -/
def Obligations.BitOperationsComplete : Prop :=
  ∀ (op : BitOp) (ar xr : Reg) (k : BitVec 4) (mask : Word) (s : State), s.par.model.isScientific = true →
    (∃ t n, exec (bitXInstr op ar xr) s = .next t ∧ ReadsAs (bitXCode op ar xr) xr s n ∧
      BitDone (bitXCode op ar xr) op ar (1#16 <<< (n.toNat % 16)) s t) ∧
    (∃ t, exec (bitKInstr op ar k) s = .next t ∧ BitDone (bitKCode op ar k) op ar (1#16 <<< k.toNat) s t) ∧
    (∃ t, exec (bitMInstr op ar xr mask) s = .next t ∧
      BitDone (bitMCode op ar xr mask) op ar (if xr = .r0 then mask else mask &&& s.reg xr) s t)

/-- NEGT, CPLM, MOVP, MOVN: the negative, complement, magnitude or negative magnitude of XR, modulo 2^16, goes to AR with NG,
ZE, OD; CY and OV are unaffected. That NG, ZE and OD are always written from the result is the spec's own reading of "may
alter", decision D22, which the model follows: assumption log 30. Register 0 as operand gives PC_OPERAND: D2, assumption log 2
(R375 to R380). -/
def Obligations.RegisterMovesComplete : Prop :=
  ∀ (op : MoveOp) (ar xr : Reg) (s : State), s.par.model.isScientific = true →
    let word : Word := match op with | .negt => 0x4700 | .cplm => 0x4708 | .movp => 0x4780 | .movn => 0x4788
    code (moveInstr op ar xr) = ⟨word ||| ar.bits.setWidth 16 <<< 4 ||| xr.bits.setWidth 16, none⟩ ∧
    ∃ t v, exec (moveInstr op ar xr) s = .next t ∧ ReadsAs (moveCode op ar xr) xr s v ∧ MoveValue op v (t.reg ar) ∧
      NzoOf (t.reg ar) t.st ∧ (ar ≠ .r0 → t.pc = s.pc + 2) ∧ SameBut [ar] 0x0700 [] s t

/-! ## Fixed point -/

/-- DLOD copies the two words at M to the pair and DSTA the pair to them, with NG, ZE, OD of both words; a pair is register 2,
4 or 6 with the next one; only a pair is given a behaviour, decision D30, assumption log 13 (R51, R431, R432, R440, R441). -/
def Obligations.DoubleTransfersComplete : Prop :=
  ∀ (ar : Reg) (m : MemOp) (s s1 : State) (a : Word), s.par.model.isScientific = true → isPair ar = true →
    (∀ r, isPair r = true ↔ r ∈ [.r2, .r4, .r6]) ∧
    (∀ p ∈ [(Reg.r2, Reg.r3), (.r4, .r5), (.r6, .r7)], ∀ r ∈ [p.1, p.2],
      pairHigh r = p.1 ∧ pairLow r = p.2 ∧ ∀ u, pairOf r u = ⟨u.reg p.1, u.reg p.2⟩) ∧
    (let code := fixedCode .dlod ar m;
      effectiveAddress (contextOf code s) .none .word m (startOf code s) = .ok a s1 → WordsInMemory s1 [a, a + 2] →
      ∃ t, exec (.dlod ar m) s = .next t ∧ pairOf ar t = ⟨s1.wordAt a, s1.wordAt (a + 2)⟩ ∧
        Nzo2Of (pairOf ar t) t.st ∧ t.pc = (contextOf code s).next ∧ FixedFrame ar 0x0700 [] s t) ∧
    (let code := fixedCode .dsta ar m;
      effectiveAddress (contextOf code s) .none .word m (startOf code s) = .ok a s1 → WordsInMemory s1 [a, a + 2] →
      ∃ t, exec (.dsta ar m) s = .next t ∧ t.wordAt a = (pairOf ar s).h ∧ t.wordAt (a + 2) = (pairOf ar s).l ∧
        pairOf ar t = pairOf ar s ∧ Nzo2Of (pairOf ar s) t.st ∧ t.pc = (contextOf code s).next ∧
        FixedFrame ar 0x0700 (bytesOfWord a ++ bytesOfWord (a + 2)) s t)

/-- DADD and DSUB: the pair becomes the sum or difference modulo 2^31 with S' adjusted; CY is the carry out of 31 bits (for
DSUB: no borrow), OV is set where the exact result does not fit, NG, ZE, OD are the result's. What CY and OV are here is the
spec's own decision D18 (with D5 for the borrow), which the model follows: assumption log 30 (R51, R442, R443). -/
def Obligations.DoubleArithmeticCompletes : Prop :=
  ∀ (ar : Reg) (m : MemOp) (s s1 : State) (a : Word), s.par.model.isScientific = true → isPair ar = true →
    let x := pairOf ar s
    let y : DoubleWord := ⟨s1.wordAt a, s1.wordAt (a + 2)⟩
    (let code := fixedCode .dadd ar m;
      effectiveAddress (contextOf code s) .none .word m (startOf code s) = .ok a s1 → WordsInMemory s1 [a, a + 2] →
      ∃ t, exec (.dadd ar m) s = .next t ∧ (2 ^ 31 : Int) ∣ pairNumber (pairOf ar t) - (pairNumber x + pairNumber y) ∧
        SignAdjusted (pairOf ar t) ∧ flag t.st .cy = decide (2 ^ 31 ≤ (bits31 x).toNat + (bits31 y).toNat) ∧
        flag t.st .ov = (flag s.st .ov || outOfRange 31 (pairNumber x + pairNumber y)) ∧ Nzo2Of (pairOf ar t) t.st ∧
        t.pc = (contextOf code s).next ∧ FixedFrame ar 0x070C [] s t) ∧
    (let code := fixedCode .dsub ar m;
      effectiveAddress (contextOf code s) .none .word m (startOf code s) = .ok a s1 → WordsInMemory s1 [a, a + 2] →
      ∃ t, exec (.dsub ar m) s = .next t ∧ (2 ^ 31 : Int) ∣ pairNumber (pairOf ar t) - (pairNumber x - pairNumber y) ∧
        SignAdjusted (pairOf ar t) ∧ flag t.st .cy = decide ((bits31 y).toNat ≤ (bits31 x).toNat) ∧
        flag t.st .ov = (flag s.st .ov || outOfRange 31 (pairNumber x - pairNumber y)) ∧ Nzo2Of (pairOf ar t) t.st ∧
        t.pc = (contextOf code s).next ∧ FixedFrame ar 0x070C [] s t)

/-- MULT and MLTA: the pair is the exact product of the odd register and the operand, plus the even register for MLTA, a
multiplier of 8000 counting as 0; NG, ZE, OD are the result's, CY is open after MLTA. That the even register is added at unit
weight is R436's own reading and that CY is open is decision D33, which the model follows: assumption log 30 and, for CY, 15
(R434, R435, R436). -/
def Obligations.MultipliesComplete : Prop :=
  ∀ (ar : Reg) (m : MemOp) (s s1 : State) (a : Word), s.par.model.isScientific = true →
    let v := if s1.wordAt a = 0x8000 then 0 else (s1.wordAt a).toInt
    (let code := fixedCode .mult ar m;
      ar ∈ [.r3, .r5, .r7] →
      effectiveAddress (contextOf code s) .none .word m (startOf code s) = .ok a s1 → InMemory s1 .word a →
      ∃ t, exec (.mult ar m) s = .next t ∧ pairNumber (pairOf ar t) = (s.reg ar).toInt * v ∧ SignAdjusted (pairOf ar t) ∧
        Nzo2Of (pairOf ar t) t.st ∧ t.pc = (contextOf code s).next ∧ FixedFrame ar 0x0700 [] s t) ∧
    (let code := fixedCode .mult ar m;
      isPair ar = true →
      effectiveAddress (contextOf code s) .none .word m (startOf code s) = .ok a s1 → InMemory s1 .word a →
      ∃ t, exec (.mlta ar m) s = .next t ∧
        pairNumber (pairOf ar t) = (s.reg (pairLow ar)).toInt * v + (s.reg ar).toInt ∧ SignAdjusted (pairOf ar t) ∧
        Nzo2Of (pairOf ar t) t.st ∧ t.pc = (contextOf code s).next ∧ FixedFrame ar 0x0708 [] s t)

/-- DIVD: quotient to the odd and remainder to the even register, the remainder smaller than the divisor and of the dividend's
sign; a divisor of 0 or 8000, a dividend of 8000 0000 and a quotient beyond 32767 only set OV and leave the pair and NG, ZE, OD
open; a quotient of -32768 may do either. That a quotient too large is a divide check, what is open after one, that NG, ZE, OD
describe the quotient, and the case -32768 are the spec's own choices, decision D19, which the model follows: assumption log 16
(R434, R437). -/
def Obligations.DivideCompletes : Prop :=
  ∀ (ar : Reg) (m : MemOp) (s s1 : State) (a : Word), s.par.model.isScientific = true → isPair ar = true →
    let code := fixedCode .divd ar m
    let x := pairOf ar s
    let d := if s1.wordAt a = 0x8000 then 0 else (s1.wordAt a).toInt
    effectiveAddress (contextOf code s) .none .word m (startOf code s) = .ok a s1 → InMemory s1 .word a →
    ∃ t, exec (.divd ar m) s = .next t ∧ t.pc = (contextOf code s).next ∧ FixedFrame ar 0x0704 [] s t ∧
      let check := flag t.st .ov = true
      let result := flag t.st .ov = flag s.st .ov ∧ NzoOf (pairOf ar t).l t.st ∧
        pairNumber x = (pairOf ar t).l.toInt * d + (pairOf ar t).h.toInt ∧ (pairOf ar t).h.toInt.natAbs < d.natAbs ∧
        0 ≤ (pairOf ar t).h.toInt * pairNumber x
      if d = 0 ∨ pairNumber x = -(2 ^ 30) ∨ 32769 ≤ ((pairNumber x).tdiv d).natAbs ∨ (pairNumber x).tdiv d = 32768 then check
      else if (pairNumber x).tdiv d = -32768 then check ∨ result
      else result

/-! ## Decimal and character instructions -/

/-- Every class C instruction completes when its registers are named and its fields and the temporary storage are program
memory: registers 5, 6, 7 are in the temporary storage, the written field and, for the compares, EQ and GT may have changed,
and nothing else. The spec's own decision D23, which the model follows, assumption log 30: the storage is the executing
processor's own level-5 block, and registers 5, 6, 7 hold their values at completion; forms with R1 or R2 = 0 and longer
fields are outside it, assumption log 13 and 14 (R321 to R324, R328). -/
def Obligations.DecimalsComplete : Prop :=
  ∀ (op : DecimalOp) (reg1 reg2 : Reg) (o : DecOperands) (s : State), DecimalReady op reg1 reg2 o s →
    let written := writtenBytes op reg1 reg2 o s
    ∃ t, exec (decimalInstr op reg1 reg2 o) s = .next t ∧ t.pc = s.pc + 4 ∧
      SameBut [] (if op = .cmpd ∨ op = .comp then 0x0003 else 0) (storageBytes s ++ written) s t ∧
      ((∀ b ∈ written, b ∉ storageBytes s) →
        (storageWords s).map t.wordAt = [s.reg .r5, s.reg .r6, s.reg .r7])

/-- ZADD and MOVR move bytes from the right end and MOVL from the left, one at a time in that order, so that overlapping
fields propagate; ZADD fills a longer destination with zeros, the moves leave its rest. The result on overlapping fields is
defined by that order in R329's own choice, and the temporary storage of the executing processor, which the fields may overlap
too, is R324's reading: decision D23, which the model follows, assumption log 30 (R324, R329, R330, R338, R340). -/
def Obligations.FieldMovesComplete : Prop :=
  ∀ (reg1 reg2 : Reg) (o : DecOperands) (s : State),
    let src := sourceOf reg1 o s
    let dst := destOf reg2 o s
    let start := (savedState s).setPc (s.pc + 4)
    (DecimalReady .zadd reg1 reg2 o s → exec (.zadd reg1 reg2 o) s = .next
      ((List.range dst.len).foldl (fun u k =>
        if k < src.len then copyByte (byteAddressRight dst k) (byteAddressRight src k) u
        else u.putByte (byteAddressRight dst k).toNat 0) start)) ∧
    (DecimalReady .movr reg1 reg2 o s → exec (.movr reg1 reg2 o) s = .next
      ((List.range (min src.len dst.len)).foldl
        (fun u k => copyByte (byteAddressRight dst k) (byteAddressRight src k) u) start)) ∧
    (DecimalReady .movl reg1 reg2 o s → exec (.movl reg1 reg2 o) s = .next
      ((List.range (min src.len dst.len)).foldl
        (fun u k => copyByte (byteAddress dst k) (byteAddress src k) u) start))

/-- ADDD and SUBD on valid decimal fields that are apart or the same: the destination holds the sum or difference, truncated
to its digits, with the sign of the result, or its own sign after a zero. The sign of a nonzero result that is truncated to
zero is open, as R331 marks it: assumption log 17. The fields are read after registers 5, 6, 7 are stored in the processor's
own level-5 block, and for fields that overlap otherwise the result is open (R329): decision D23, assumption log 30 (R324,
R325, R331, R332). -/
def Obligations.DecimalSumsStored : Prop :=
  ∀ (reg1 reg2 : Reg) (o : DecOperands) (s : State),
    let src := sourceOf reg1 o s
    let dst := destOf reg2 o s
    let before := fieldContent dst (savedState s)
    let source := fieldContent src (savedState s)
    (∀ w ∈ bytesOfField src, w ∉ bytesOfField dst) ∨ src = dst → FieldValid source → FieldValid before →
    (DecimalReady .addd reg1 reg2 o s → ∃ t, exec (.addd reg1 reg2 o) s = .next t ∧
      SumStored (fieldNumber before + fieldNumber source) dst.len before (fieldContent dst t)) ∧
    (DecimalReady .subd reg1 reg2 o s → ∃ t, exec (.subd reg1 reg2 o) s = .next t ∧
      SumStored (fieldNumber before - fieldNumber source) dst.len before (fieldContent dst t))

/-- CMPD on valid decimal fields: EQ and GT compare their numbers, so that +0 equals -0 and lengths do not matter. The fields
are read after registers 5, 6, 7 are stored in the processor's own level-5 block: decision D23, assumption log 30 (R324,
R325, R336). -/
def Obligations.DecimalCompareCompletes : Prop :=
  ∀ (reg1 reg2 : Reg) (o : DecOperands) (s : State), DecimalReady .cmpd reg1 reg2 o s →
    let source := fieldContent (sourceOf reg1 o s) (savedState s)
    let dest := fieldContent (destOf reg2 o s) (savedState s)
    FieldValid source → FieldValid dest →
    ∃ t, exec (.cmpd reg1 reg2 o) s = .next t ∧ flag t.st .eq = decide (fieldNumber source = fieldNumber dest) ∧
      flag t.st .gt = decide (fieldNumber dest < fieldNumber source)

/-- SFTR and SFTL move the digits of the field by SC positions, zeros entering and digits lost at the ends; the sign nibble
stays. That holds for every nibble value, digits A to F and other signs too, by R327's own choice, decision D23, and what is
moved is the field after registers 5, 6, 7 are stored in the processor's own level-5 block, D23 too: assumption log 30. With
SC = 0 the field keeps its value; that the model still reads and writes it then is assumption log 32 (R324, R327, R337,
R339). -/
def Obligations.DecimalShiftsComplete : Prop :=
  ∀ (reg1 reg2 : Reg) (o : DecOperands) (s : State),
    let src := sourceOf reg1 o s
    let n := o.l2.toNat + if o.x2 = .r0 then 0 else (s.reg o.x2).toNat
    let before := fieldContent src (savedState s)
    (DecimalReady .sftr reg1 reg2 o s → ∃ t, exec (.sftr reg1 reg2 o) s = .next t ∧
      fieldSign (fieldContent src t) = fieldSign before ∧
      ∀ j < 2 * src.len - 1,
        fieldDigit (fieldContent src t) j = if j + n < 2 * src.len - 1 then fieldDigit before (j + n) else 0) ∧
    (DecimalReady .sftl reg1 reg2 o s → ∃ t, exec (.sftl reg1 reg2 o) s = .next t ∧
      fieldSign (fieldContent src t) = fieldSign before ∧
      ∀ j < 2 * src.len - 1,
        fieldDigit (fieldContent src t) j = if j < n then 0 else fieldDigit before (j - n))

/-- COMP compares the fields byte by byte from the left, the shorter one extended with blanks; the first difference decides
GT, and EQ means there is none. The fields are read after registers 5, 6, 7 are stored in the processor's own level-5 block:
decision D23, assumption log 30 (R324, R341). -/
def Obligations.FieldCompareCompletes : Prop :=
  ∀ (reg1 reg2 : Reg) (o : DecOperands) (s : State), DecimalReady .comp reg1 reg2 o s →
    let a := extendedByte (sourceOf reg1 o s) (savedState s)
    let b := extendedByte (destOf reg2 o s) (savedState s)
    let len := max (sourceOf reg1 o s).len (destOf reg2 o s).len
    ∃ t, exec (.comp reg1 reg2 o) s = .next t ∧
      (flag t.st .eq = true ↔ ∀ k < len, a k = b k) ∧
      (flag t.st .gt = true ↔ ∃ k < len, (∀ j < k, a j = b j) ∧ (b k).toNat < (a k).toNat)

/-! ## Interrupts -/

/-- The blocks of the six levels (R470). -/
def Obligations.LevelBlocks : Prop :=
  ∀ cpu : BitVec 2,
    blockBase cpu (.system .l1) = 0x0000 ∧ blockBase cpu (.system .l2) = 0x0008 ∧
    blockBase cpu (.system .l3) = 0x0010 ∧ blockBase cpu (.system .l4) = 0x0018 ∧
    blockBase cpu .unimplemented = 0x0020 + 0x0010 * BitVec.ofNat 16 cpu.toNat ∧
    blockBase cpu .abort = 0x0028 + 0x0010 * BitVec.ofNat 16 cpu.toNat

/-- At a recognition point the pending request of an enabled level is taken before the next instruction: it is consumed, and
the entry saves the program counter. The level taken is the one that `INT_PRIORITY` ranks first: every level before it in the
list is masked or has no pending request; a level that is masked or has no request is not taken. Where requests are recognised
and that one is consumed is the spec's own decision D11, which the model follows: assumption log 30. That the priority is a
list, and that a level which the list does not name is never taken, is the model's choice, assumption log 7; hence the premise
of the last clause; the entry is decision D9, assumption log 30 and 5, the status after it D10, assumption log 6 (R41, R472,
R481 to R483). -/
def Obligations.RequestsTaken : Prop :=
  ∀ s : State,
    (let u := arrive s;
      u.run = .running → ∀ l, pickLevel u = some l → BlockInMemory u (.system l) →
        ∃ r t, r ∈ u.pending ∧ r.level = l ∧ u.st.getLsbD (11 + levelNumber l) = false ∧ step s = .next t ∧
          EntryDone (.system l) r.moduleAddr u.pc (u.setPending (u.pending.erase r)) t) ∧
    (∀ l, pickLevel s = some l →
      s.st.getLsbD (11 + levelNumber l) = false ∧ (∃ r ∈ s.pending, r.level = l) ∧
        ∃ before rest, s.par.priority = before ++ l :: rest ∧
          ∀ l' ∈ before, s.st.getLsbD (11 + levelNumber l') = true ∨ ∀ r ∈ s.pending, r.level ≠ l') ∧
    ((∀ r ∈ s.pending, s.st.getLsbD (11 + levelNumber r.level) = true) → pickLevel s = none) ∧
    (∀ r ∈ s.pending, s.st.getLsbD (11 + levelNumber r.level) = false → r.level ∈ s.par.priority →
      pickLevel s ≠ none)

/-- A waiting processor stays as it is until a request of an enabled level is pending: level 4 is taken with the address of
the wait instruction saved; levels 1 to 3 make it run on at NEXT, the request still pending. That levels 1 to 3 wake it
without consuming the request is the spec's own decision D25, on which R280 lets no proof depend unsaid: assumption log 30.
That a wait without such a request, RUN or not, is a step in place, and that the program counter is P meanwhile, are the
model's choice, assumption log 25; the entry is decision D9, assumption log 30 and 5, the status after it D10, assumption log
6 (R280, R485). -/
def Obligations.WaitsEnd : Prop :=
  ∀ s : State, (arrive s).run = .waiting → WaitOutcome (arrive s) (step s)

/-! ## The whole machine -/

/-- Under the identity `ENTRY_STATUS`, F1 to F3 change only by RSTS, SETS, MSTS and RETN, the mask bits only by ENBL, ENBW, DSBL,
DSBW, MSTS and RETN, and LP only by classes 1, 2, 5, 6, MSTS and RETN (R35, R36, R41). -/
def Obligations.StatusBitsKept : Prop :=
  ∀ (i : Instr) (s t : State), s.par.entryStatus = .identity → exec i s = .next t →
    (∀ md d, i ≠ .msts md d ∧ i ≠ .retn md d) →
    ((∀ f, i ≠ .rsts f ∧ i ≠ .sets f) → t.st &&& 0x0070 = s.st &&& 0x0070) ∧
    ((∀ k, i ≠ .enbl k ∧ i ≠ .enbw k ∧ i ≠ .dsbl k ∧ i ≠ .dsbw k) → t.st &&& 0xF000 = s.st &&& 0xF000) ∧
    ((∀ cls wd op ar m, autoStep cls ≠ .none → i ≠ grInstr cls wd op ar m) → t.st &&& 0x0080 = s.st &&& 0x0080)

/-- No instruction changes the parameters or the inputs; none changes the pending requests, but that a wait instruction which
meets an enabled request of level 4 takes it; only SKEY and JKEY change the key; a running processor that stops running has
executed HALT, or a wait instruction. That the wake by levels 1 to 3 consumes nothing is the spec's own decision D25, HALT's
run state D27: assumption log 30 (R45, R47, R271, R280, R295, R296, R480). -/
def Obligations.ControlStateKept : Prop :=
  ∀ (i : Instr) (s t : State), exec i s = .next t →
    let waits := i = .waitE ∨ i = .waitD ∨ ∃ k, i = .enbw k ∨ i = .dsbw k
    t.par = s.par ∧ t.inputs = s.inputs ∧
    (t.pending = s.pending ∨ waits ∧ ∃ r ∈ s.pending, r.level = .l4 ∧ t.pending = s.pending.erase r) ∧
    ((∀ k a, i ≠ .skey k ∧ i ≠ .jkey k a) → t.key = s.key) ∧
    (s.run = .running → t.run = .halted → i = .halt) ∧
    (s.run = .running → t.run = .waiting → waits)

/-- The forms to which the spec gives no behaviour are refused by name: a double-length instruction on a register that begins
no pair, a class B instruction other than MULT with AR = 3, 5, 7, and a decimal instruction without a field register. The
refusals are the spec's own decisions D30 and D23, and the order of the tests the model's: assumption log 13 (R322, R405,
R431). -/
def Obligations.FormsRefused : Prop :=
  ∀ (s : State) (ar xr : Reg),
    (s.par.model.isScientific = true → isPair ar = false →
      (∀ op, exec (normalizeInstr true op ar xr) s = .refused .pairDesignator) ∧
      (∀ op, exec (shiftXInstr true op ar xr) s = .refused .pairDesignator) ∧
      ∀ op k, exec (doubleShiftKInstr op 0 k) s = .refused .pairDesignator) ∧
    (∀ op m, s.par.model.isScientific = true → ar ∈ [.r3, .r5, .r7] → op ≠ .mult → noAddress m = false →
      exec (fixedInstr op ar m) s = .refused .pairDesignator) ∧
    (∀ op o, s.par.model.isDecimal = true → o.bit7 = false → o.bit3 = false →
      exec (decimalInstr op .r0 xr o) s = .refused .decimalRegisterZero ∧
      (twoFields op = true → exec (decimalInstr op ar .r0 o) s = .refused .decimalRegisterZero))

/-- An indirect read, the first or a later one of a chain of at most fifteen, at an address where nothing answers takes the
level-6 abort, in every instruction that makes one: the general register instructions of classes 1, 2, 3, 5, 6, 7, JUMP, JSBR,
FCLW, FCLB (one read, like every byte form) and class B. The block holds that address, no operand has been written, and
`DevelopsAddress` says what is open. In a general register instruction that is its indicators and, in classes 1, 2, 5 and 6,
LP and the stepped register; the accumulator is unchanged (R199), but for AR = XR in those classes, where the one register is
open: the model's choice, assumption log 33. JUMP and JSBR leave all; in FCLW and FCLB the accumulator and in class B the pair
and the indicators are open. That the indicators are open although nothing has been computed is R475's word, R199 keeps them
for a trap only, and what exactly is open is the model's reading: assumption log 9; the abort itself is decision D15,
assumption log 30; that a chain has fifteen reads at most is D24, assumption log 30; the entry is decision D9, assumption log
30 and 5, the status after it D10, assumption log 6 (R77, R153, R154, R162, R199, R475, R478). -/
def Obligations.AbsentPointerAborts : Prop :=
  ∀ (i : Instr) (auto : AutoStep) (wd : Width) (m : MemOp) (opened : List Reg) (mask : Word) (s : State) (k : Nat),
    noAddress m = false → m.ind = true → DevelopsAddress s.par.model i auto wd m opened mask →
    k ≤ 14 → (wd = .byte → k = 0) →
    let d0 := developed auto wd m s
    (∀ j < k, InMemory s .word (readAddress s d0 j) ∧ (pointer s d0 j).getLsbD 0 = true) →
    s.site (busAddress .word (readAddress s d0 k)) = .nothing → BlockInMemory s .abort →
    ∃ info ret u t, exec i s = .next t ∧ SavedPc s (code i).first ret ∧ EntryDone .abort info ret u t ∧
      info &&& 0xFFFE = readAddress s d0 k &&& 0xFFFE ∧ SameBut opened mask [] (startOf (code i) s) u
end

