-- ==== Sys2Proof/Laws/Closed.lean ====
section
/-! SUPPORT. The operations of the model against the closed forms of Safety that the statements are written in. -/

namespace Sys2Proof.Machine

/-! ## General operations -/

theorem storesResult_eq (op : GrOp) : storesResult op = stores op := by cases op <;> rfl

theorem opIndicators_eq (op : GrOp) : opIndicators op = affected op := by cases op <;> rfl

/-- What the operation computes is the result that the rules give. -/
theorem aluResult_result (op : GrOp) (src tgt : Word) : OpResult op src tgt (aluResult op src tgt) := by
  have hs := src.isLt
  have ht := tgt.isLt
  cases op with
  | mov => rfl
  | cmp => trivial
  | sub => simp only [OpResult, aluResult, BitVec.toNat_sub]
  | add => simp only [OpResult, aluResult, BitVec.toNat_add]
  | eor => intro j _; simp only [aluResult, BitVec.getLsbD_xor]
  | and | ior | tst => intro j _; simp [aluResult]

theorem stepSize_eq (wd : Width) : stepSize wd = operandSize wd := by cases wd <;> rfl

/-! ## Bits and pairs -/

/-- What the bit operation computes is the value that the rules give. -/
theorem bitResult_value (op : BitOp) (a mask : Word) : BitValue op a mask (bitResult op a mask) := by
  cases op with
  | tbit => rfl
  | tsbt => simp only [BitValue, bitResult, BitVec.toNat_shiftLeft, Nat.shiftLeft_eq]
  | rbit => intro j hj; simp [bitResult, hj]
  | cbit => intro j _; simp only [bitResult, BitVec.getLsbD_xor]
  | sbit | ibit => intro j _; simp [bitResult]

theorem dval_eq (x : DoubleWord) : dval x = pairNumber x := by
  simp [dval, pairNumber, BitVec.extractLsb'_toNat]

/-! ## Class C -/

theorem decimalIndicators_eq (op : DecimalOp) :
    decimalIndicators op = if op = .cmpd ∨ op = .comp then 0x0003 else 0 := by cases op <;> rfl

theorem temporaryWords_eq (s : State) : temporaryWords s = storageWords s := by
  unfold temporaryWords storageWords blockBase
  rw [BitVec.ofNat_toNat]

/-- The bytes of the temporary storage, as the model lists its words. -/
theorem storageBytes_eq (s : State) : storageBytes s = (temporaryWords s).flatMap bytesOfWord := by
  rw [storageBytes, temporaryWords_eq]

theorem fieldCount_eq (l : BitVec 4) (x : Reg) (s : State) : fieldCount l x s = l.toNat + appended x s := by
  cases x <;> simp [fieldCount, appended, indexValue]

theorem sourceField_eq (reg1 : Reg) (o : DecOperands) (s : State) : sourceField reg1 o s = sourceOf reg1 o s := by
  simp only [sourceField, sourceOf, fieldCount_eq]

theorem destField_eq (reg2 : Reg) (o : DecOperands) (s : State) : destField reg2 o s = destOf reg2 o s := by
  simp only [destField, destOf, fieldCount_eq]

theorem fieldBytes_eq (f : Field) : fieldBytes f = bytesOfField f := rfl

/-- Fields without a common byte do not overlap in the sense of the model. -/
theorem fieldsOverlap_false {f g : Field} (hf : 0 < f.len) (hg : 0 < g.len)
    (h : ∀ w ∈ bytesOfField f, w ∉ bytesOfField g) : fieldsOverlap f g = false := by
  have mem : ∀ (x : Field) (k : Nat), k < x.len → x.addr + BitVec.ofNat 16 k ∈ bytesOfField x := by
    intro x k hk
    refine List.mem_map.mpr ⟨x.len - 1 - k, by simp; omega, ?_⟩
    simp only [byteAddressRight, byteAddress, show x.len - 1 - (x.len - 1 - k) = k by omega]
  have self : ∀ x : Field, 0 < x.len → x.addr ∈ bytesOfField x := fun x hx => by simpa using mem x 0 hx
  have move : ∀ a b : Word, a + BitVec.ofNat 16 (b - a).toNat = b := fun a b => by
    rw [BitVec.ofNat_toNat, BitVec.setWidth_eq]; bv_omega
  unfold fieldsOverlap
  rw [Bool.or_eq_false_iff, decide_eq_false_iff_not, decide_eq_false_iff_not]
  refine ⟨fun hd => ?_, fun hd => ?_⟩
  · have := mem f _ hd
    rw [move] at this
    exact h _ this (self g hg)
  · have := mem g _ hd
    rw [move] at this
    exact h _ (self f hf) this

theorem signNibble_eq (bs : List Byte) : signNibble bs = fieldSign bs := by
  cases bs <;> rfl

/-- The nibbles of a field, from the right: number 2 k is the low and number 2 k + 1 the high half of byte k. -/
theorem nibblesOf_getD (bs : List Byte) : ∀ j, (nibblesOf bs).getD j 0 =
    if j % 2 = 0 then (bs.getD (j / 2) 0).extractLsb' 0 4 else (bs.getD (j / 2) 0).extractLsb' 4 4 := by
  induction bs with
  | nil => intro j; simp [nibblesOf]
  | cons b bs ih =>
    intro j
    match j with
    | 0 => rfl
    | 1 => rfl
    | j + 2 =>
      simp only [nibblesOf, List.getD_cons_succ, ih, Nat.add_mod_right, show (j + 2) / 2 = j / 2 + 1 by omega]

theorem nibblesOf_length (bs : List Byte) : (nibblesOf bs).length = 2 * bs.length := by
  induction bs with
  | nil => rfl
  | cons b bs ih => simp only [nibblesOf, List.length_cons, ih]; omega

theorem digitsOf_length (bs : List Byte) : (digitsOf bs).length = 2 * bs.length - 1 := by
  simp [digitsOf, nibblesOf_length]

theorem digitsOf_getD (bs : List Byte) (j : Nat) : (digitsOf bs).getD j 0 = fieldDigit bs j := by
  have : (digitsOf bs).getD j 0 = (nibblesOf bs).getD (j + 1) 0 := by
    unfold digitsOf; cases nibblesOf bs <;> rfl
  rw [this, nibblesOf_getD, fieldDigit]
  rcases Nat.mod_two_eq_zero_or_one j with h | h
  · rw [if_neg (by omega), if_pos h, show (j + 1) / 2 = j / 2 by omega]
  · rw [if_pos (by omega), if_neg (by omega), show (j + 1) / 2 = j / 2 + 1 by omega]

theorem digitsValid_iff (bs : List Byte) : (digitsOf bs).all (fun d => decide (d.toNat ≤ 9)) = true ↔ DigitsValid bs := by
  rw [List.all_eq_true]
  refine ⟨fun h j hj => ?_, fun h d hd => ?_⟩
  · have hj' : j < (digitsOf bs).length := by rw [digitsOf_length]; exact hj
    rw [← digitsOf_getD, List.getD_eq_getElem _ _ hj']
    simpa using h _ (List.getElem_mem hj')
  · obtain ⟨j, hj, rfl⟩ := List.mem_iff_getElem.mp hd
    have := h j (by rw [← digitsOf_length]; exact hj)
    rw [← digitsOf_getD, List.getD_eq_getElem _ _ hj] at this
    simpa using this

theorem validDecimal_iff (bs : List Byte) : validDecimal bs = true ↔ FieldValid bs := by
  rw [validDecimal, Bool.and_eq_true, digitsValid_iff, signNibble_eq]
  simp [FieldValid]

theorem digitsValue_sum (ds : List (BitVec 4)) :
    digitsValue ds = ((List.range ds.length).map fun j => (ds.getD j 0).toNat * 10 ^ j).sum := by
  induction ds with
  | nil => rfl
  | cons d ds ih =>
    rw [digitsValue, ih, List.length_cons, List.range_succ_eq_map, List.map_cons, List.map_map, List.sum_cons,
      ← List.sum_map_mul_left]
    congr 1
    · simp
    · congr 1
      refine List.map_congr_left fun j _ => ?_
      simp only [Function.comp, List.getD_cons_succ, Nat.pow_succ]
      ring

theorem digitsValue_eq (bs : List Byte) : digitsValue (digitsOf bs) = fieldMagnitude bs := by
  rw [digitsValue_sum, digitsOf_length, fieldMagnitude]
  simp only [digitsOf_getD]

theorem decimalValue_eq (bs : List Byte) : decimalValue bs = fieldNumber bs := by
  rw [decimalValue, fieldNumber, signNibble_eq, digitsValue_eq]

end Sys2Proof.Machine
end

