-- ==== Sys2Proof/Laws/Fields.lean ====
section
/-! SUPPORT. The fields of the words that the formats build. -/

namespace Sys2Proof

@[simp] theorem regOf_bits (r : Reg) : regOf r.bits = r := by cases r <;> rfl

theorem bits_regOf (b : BitVec 3) : (regOf b).bits = b := by revert b; decide

section
variable (c : BitVec 4) (b : Bool) (op : BitVec 3) (i : Bool) (ar : BitVec 3) (e : Bool) (xr : BitVec 3)

@[simp] theorem fieldC_fieldsWord : fieldC (fieldsWord c b op i ar e xr) = c := by
  unfold fieldC fieldsWord; grind
@[simp] theorem bit11_fieldsWord : (fieldsWord c b op i ar e xr).getLsbD 11 = b := by
  unfold fieldsWord; cases b <;> grind
@[simp] theorem fieldOp_fieldsWord : fieldOp (fieldsWord c b op i ar e xr) = op := by
  unfold fieldOp fieldsWord; grind
@[simp] theorem bit7_fieldsWord : (fieldsWord c b op i ar e xr).getLsbD 7 = i := by
  unfold fieldsWord; cases i <;> grind
@[simp] theorem fieldAr_fieldsWord : fieldAr (fieldsWord c b op i ar e xr) = regOf ar := by
  unfold fieldAr fieldsWord; congr 1; grind
@[simp] theorem bit3_fieldsWord : (fieldsWord c b op i ar e xr).getLsbD 3 = e := by
  unfold fieldsWord; cases e <;> grind
@[simp] theorem fieldXr_fieldsWord : fieldXr (fieldsWord c b op i ar e xr) = regOf xr := by
  unfold fieldXr fieldsWord; congr 1; grind
@[simp] theorem fieldT_fieldsWord : fieldT (fieldsWord c b op i ar e xr) = BitVec.ofBool b ++ op := by
  unfold fieldT fieldsWord; grind
@[simp] theorem fieldH3_fieldsWord : fieldH3 (fieldsWord c b op i ar e xr) = BitVec.ofBool i ++ ar := by
  unfold fieldH3 fieldsWord; grind

@[simp] theorem get11_fieldsWord : (fieldsWord c b op i ar e xr)[11] = b := bit11_fieldsWord c b op i ar e xr
@[simp] theorem get7_fieldsWord : (fieldsWord c b op i ar e xr)[7] = i := bit7_fieldsWord c b op i ar e xr
@[simp] theorem get3_fieldsWord : (fieldsWord c b op i ar e xr)[3] = e := bit3_fieldsWord c b op i ar e xr
end

section
variable (c t : BitVec 4) (d : BitVec 8)

@[simp] theorem fieldC_byteWord : fieldC (byteWord c t d) = c := by unfold fieldC byteWord; grind
@[simp] theorem fieldT_byteWord : fieldT (byteWord c t d) = t := by unfold fieldT byteWord; grind
@[simp] theorem fieldD_byteWord : fieldD (byteWord c t d) = d := by unfold fieldD byteWord; grind
end

end Sys2Proof
end

