-- ==== Sys2Proof/Laws/State.lean ====
section
/-! SUPPORT. Registers, status and the other fields after each update: one lemma per field per update. -/

namespace Sys2Proof.Machine

/-! ### setReg -/

@[simp] theorem State.setReg_regs (s : State) (r : Reg) (v : Word) : (s.setReg r v).regs = s.regs.set r v := rfl
@[simp] theorem State.setReg_st (s : State) (r : Reg) (v : Word) : (s.setReg r v).st = s.st := rfl
@[simp] theorem State.setReg_key (s : State) (r : Reg) (v : Word) : (s.setReg r v).key = s.key := rfl
@[simp] theorem State.setReg_run (s : State) (r : Reg) (v : Word) : (s.setReg r v).run = s.run := rfl
@[simp] theorem State.setReg_mem (s : State) (r : Reg) (v : Word) : (s.setReg r v).mem = s.mem := rfl
@[simp] theorem State.setReg_pending (s : State) (r : Reg) (v : Word) : (s.setReg r v).pending = s.pending := rfl
@[simp] theorem State.setReg_par (s : State) (r : Reg) (v : Word) : (s.setReg r v).par = s.par := rfl
@[simp] theorem State.setReg_inputs (s : State) (r : Reg) (v : Word) : (s.setReg r v).inputs = s.inputs := rfl
@[simp] theorem State.setReg_deviceScript (s : State) (r : Reg) (v : Word) : (s.setReg r v).deviceScript = s.deviceScript := rfl
@[simp] theorem State.setReg_deviceLog (s : State) (r : Reg) (v : Word) : (s.setReg r v).deviceLog = s.deviceLog := rfl
@[simp] theorem State.setReg_freeCount (s : State) (r : Reg) (v : Word) : (s.setReg r v).freeCount = s.freeCount := rfl

/-! ### setPc -/

@[simp] theorem State.setPc_st (s : State) (v : Word) : (s.setPc v).st = s.st := rfl
@[simp] theorem State.setPc_key (s : State) (v : Word) : (s.setPc v).key = s.key := rfl
@[simp] theorem State.setPc_run (s : State) (v : Word) : (s.setPc v).run = s.run := rfl
@[simp] theorem State.setPc_mem (s : State) (v : Word) : (s.setPc v).mem = s.mem := rfl
@[simp] theorem State.setPc_pending (s : State) (v : Word) : (s.setPc v).pending = s.pending := rfl
@[simp] theorem State.setPc_par (s : State) (v : Word) : (s.setPc v).par = s.par := rfl
@[simp] theorem State.setPc_inputs (s : State) (v : Word) : (s.setPc v).inputs = s.inputs := rfl
@[simp] theorem State.setPc_deviceScript (s : State) (v : Word) : (s.setPc v).deviceScript = s.deviceScript := rfl
@[simp] theorem State.setPc_deviceLog (s : State) (v : Word) : (s.setPc v).deviceLog = s.deviceLog := rfl
@[simp] theorem State.setPc_freeCount (s : State) (v : Word) : (s.setPc v).freeCount = s.freeCount := rfl

/-! ### setSt -/

@[simp] theorem State.setSt_regs (s : State) (v : Word) : (s.setSt v).regs = s.regs := rfl
@[simp] theorem State.setSt_st (s : State) (v : Word) : (s.setSt v).st = v := rfl
@[simp] theorem State.setSt_key (s : State) (v : Word) : (s.setSt v).key = s.key := rfl
@[simp] theorem State.setSt_run (s : State) (v : Word) : (s.setSt v).run = s.run := rfl
@[simp] theorem State.setSt_mem (s : State) (v : Word) : (s.setSt v).mem = s.mem := rfl
@[simp] theorem State.setSt_pending (s : State) (v : Word) : (s.setSt v).pending = s.pending := rfl
@[simp] theorem State.setSt_par (s : State) (v : Word) : (s.setSt v).par = s.par := rfl
@[simp] theorem State.setSt_inputs (s : State) (v : Word) : (s.setSt v).inputs = s.inputs := rfl
@[simp] theorem State.setSt_deviceScript (s : State) (v : Word) : (s.setSt v).deviceScript = s.deviceScript := rfl
@[simp] theorem State.setSt_deviceLog (s : State) (v : Word) : (s.setSt v).deviceLog = s.deviceLog := rfl
@[simp] theorem State.setSt_freeCount (s : State) (v : Word) : (s.setSt v).freeCount = s.freeCount := rfl

/-! ### setKey -/

@[simp] theorem State.setKey_regs (s : State) (k : BitVec 2) : (s.setKey k).regs = s.regs := rfl
@[simp] theorem State.setKey_st (s : State) (k : BitVec 2) : (s.setKey k).st = s.st := rfl
@[simp] theorem State.setKey_key (s : State) (k : BitVec 2) : (s.setKey k).key = k := rfl
@[simp] theorem State.setKey_run (s : State) (k : BitVec 2) : (s.setKey k).run = s.run := rfl
@[simp] theorem State.setKey_mem (s : State) (k : BitVec 2) : (s.setKey k).mem = s.mem := rfl
@[simp] theorem State.setKey_pending (s : State) (k : BitVec 2) : (s.setKey k).pending = s.pending := rfl
@[simp] theorem State.setKey_par (s : State) (k : BitVec 2) : (s.setKey k).par = s.par := rfl
@[simp] theorem State.setKey_inputs (s : State) (k : BitVec 2) : (s.setKey k).inputs = s.inputs := rfl
@[simp] theorem State.setKey_deviceScript (s : State) (k : BitVec 2) : (s.setKey k).deviceScript = s.deviceScript := rfl
@[simp] theorem State.setKey_deviceLog (s : State) (k : BitVec 2) : (s.setKey k).deviceLog = s.deviceLog := rfl
@[simp] theorem State.setKey_freeCount (s : State) (k : BitVec 2) : (s.setKey k).freeCount = s.freeCount := rfl

/-! ### setRun -/

@[simp] theorem State.setRun_regs (s : State) (r : RunState) : (s.setRun r).regs = s.regs := rfl
@[simp] theorem State.setRun_st (s : State) (r : RunState) : (s.setRun r).st = s.st := rfl
@[simp] theorem State.setRun_key (s : State) (r : RunState) : (s.setRun r).key = s.key := rfl
@[simp] theorem State.setRun_run (s : State) (r : RunState) : (s.setRun r).run = r := rfl
@[simp] theorem State.setRun_mem (s : State) (r : RunState) : (s.setRun r).mem = s.mem := rfl
@[simp] theorem State.setRun_pending (s : State) (r : RunState) : (s.setRun r).pending = s.pending := rfl
@[simp] theorem State.setRun_par (s : State) (r : RunState) : (s.setRun r).par = s.par := rfl
@[simp] theorem State.setRun_inputs (s : State) (r : RunState) : (s.setRun r).inputs = s.inputs := rfl
@[simp] theorem State.setRun_deviceScript (s : State) (r : RunState) : (s.setRun r).deviceScript = s.deviceScript := rfl
@[simp] theorem State.setRun_deviceLog (s : State) (r : RunState) : (s.setRun r).deviceLog = s.deviceLog := rfl
@[simp] theorem State.setRun_freeCount (s : State) (r : RunState) : (s.setRun r).freeCount = s.freeCount := rfl

/-! ### setMem -/

@[simp] theorem State.setMem_regs (s : State) (m : Memory) : (s.setMem m).regs = s.regs := rfl
@[simp] theorem State.setMem_st (s : State) (m : Memory) : (s.setMem m).st = s.st := rfl
@[simp] theorem State.setMem_key (s : State) (m : Memory) : (s.setMem m).key = s.key := rfl
@[simp] theorem State.setMem_run (s : State) (m : Memory) : (s.setMem m).run = s.run := rfl
@[simp] theorem State.setMem_mem (s : State) (m : Memory) : (s.setMem m).mem = m := rfl
@[simp] theorem State.setMem_pending (s : State) (m : Memory) : (s.setMem m).pending = s.pending := rfl
@[simp] theorem State.setMem_par (s : State) (m : Memory) : (s.setMem m).par = s.par := rfl
@[simp] theorem State.setMem_inputs (s : State) (m : Memory) : (s.setMem m).inputs = s.inputs := rfl
@[simp] theorem State.setMem_deviceScript (s : State) (m : Memory) : (s.setMem m).deviceScript = s.deviceScript := rfl
@[simp] theorem State.setMem_deviceLog (s : State) (m : Memory) : (s.setMem m).deviceLog = s.deviceLog := rfl
@[simp] theorem State.setMem_freeCount (s : State) (m : Memory) : (s.setMem m).freeCount = s.freeCount := rfl

/-! ### setPending -/

@[simp] theorem State.setPending_regs (s : State) (p : List Request) : (s.setPending p).regs = s.regs := rfl
@[simp] theorem State.setPending_st (s : State) (p : List Request) : (s.setPending p).st = s.st := rfl
@[simp] theorem State.setPending_key (s : State) (p : List Request) : (s.setPending p).key = s.key := rfl
@[simp] theorem State.setPending_run (s : State) (p : List Request) : (s.setPending p).run = s.run := rfl
@[simp] theorem State.setPending_mem (s : State) (p : List Request) : (s.setPending p).mem = s.mem := rfl
@[simp] theorem State.setPending_pending (s : State) (p : List Request) : (s.setPending p).pending = p := rfl
@[simp] theorem State.setPending_par (s : State) (p : List Request) : (s.setPending p).par = s.par := rfl
@[simp] theorem State.setPending_inputs (s : State) (p : List Request) : (s.setPending p).inputs = s.inputs := rfl
@[simp] theorem State.setPending_deviceScript (s : State) (p : List Request) : (s.setPending p).deviceScript = s.deviceScript := rfl
@[simp] theorem State.setPending_deviceLog (s : State) (p : List Request) : (s.setPending p).deviceLog = s.deviceLog := rfl
@[simp] theorem State.setPending_freeCount (s : State) (p : List Request) : (s.setPending p).freeCount = s.freeCount := rfl

/-! ### putByte -/

@[simp] theorem State.putByte_regs (s : State) (a : Nat) (v : Byte) : (s.putByte a v).regs = s.regs := rfl
@[simp] theorem State.putByte_st (s : State) (a : Nat) (v : Byte) : (s.putByte a v).st = s.st := rfl
@[simp] theorem State.putByte_key (s : State) (a : Nat) (v : Byte) : (s.putByte a v).key = s.key := rfl
@[simp] theorem State.putByte_run (s : State) (a : Nat) (v : Byte) : (s.putByte a v).run = s.run := rfl
@[simp] theorem State.putByte_mem (s : State) (a : Nat) (v : Byte) : (s.putByte a v).mem = s.mem.write a v := rfl
@[simp] theorem State.putByte_pending (s : State) (a : Nat) (v : Byte) : (s.putByte a v).pending = s.pending := rfl
@[simp] theorem State.putByte_par (s : State) (a : Nat) (v : Byte) : (s.putByte a v).par = s.par := rfl
@[simp] theorem State.putByte_inputs (s : State) (a : Nat) (v : Byte) : (s.putByte a v).inputs = s.inputs := rfl
@[simp] theorem State.putByte_deviceScript (s : State) (a : Nat) (v : Byte) : (s.putByte a v).deviceScript = s.deviceScript := rfl
@[simp] theorem State.putByte_deviceLog (s : State) (a : Nat) (v : Byte) : (s.putByte a v).deviceLog = s.deviceLog := rfl
@[simp] theorem State.putByte_freeCount (s : State) (a : Nat) (v : Byte) : (s.putByte a v).freeCount = s.freeCount := rfl

/-! ### putWord -/

@[simp] theorem State.putWord_regs (s : State) (a v : Word) : (s.putWord a v).regs = s.regs := rfl
@[simp] theorem State.putWord_st (s : State) (a v : Word) : (s.putWord a v).st = s.st := rfl
@[simp] theorem State.putWord_key (s : State) (a v : Word) : (s.putWord a v).key = s.key := rfl
@[simp] theorem State.putWord_run (s : State) (a v : Word) : (s.putWord a v).run = s.run := rfl
@[simp] theorem State.putWord_pending (s : State) (a v : Word) : (s.putWord a v).pending = s.pending := rfl
@[simp] theorem State.putWord_par (s : State) (a v : Word) : (s.putWord a v).par = s.par := rfl
@[simp] theorem State.putWord_inputs (s : State) (a v : Word) : (s.putWord a v).inputs = s.inputs := rfl
@[simp] theorem State.putWord_deviceScript (s : State) (a v : Word) : (s.putWord a v).deviceScript = s.deviceScript := rfl
@[simp] theorem State.putWord_deviceLog (s : State) (a v : Word) : (s.putWord a v).deviceLog = s.deviceLog := rfl
@[simp] theorem State.putWord_freeCount (s : State) (a v : Word) : (s.putWord a v).freeCount = s.freeCount := rfl

/-! ### countFree -/

@[simp] theorem State.countFree_regs (s : State) : s.countFree.regs = s.regs := rfl
@[simp] theorem State.countFree_st (s : State) : s.countFree.st = s.st := rfl
@[simp] theorem State.countFree_key (s : State) : s.countFree.key = s.key := rfl
@[simp] theorem State.countFree_run (s : State) : s.countFree.run = s.run := rfl
@[simp] theorem State.countFree_mem (s : State) : s.countFree.mem = s.mem := rfl
@[simp] theorem State.countFree_pending (s : State) : s.countFree.pending = s.pending := rfl
@[simp] theorem State.countFree_par (s : State) : s.countFree.par = s.par := rfl
@[simp] theorem State.countFree_inputs (s : State) : s.countFree.inputs = s.inputs := rfl
@[simp] theorem State.countFree_deviceScript (s : State) : s.countFree.deviceScript = s.deviceScript := rfl
@[simp] theorem State.countFree_deviceLog (s : State) : s.countFree.deviceLog = s.deviceLog := rfl
@[simp] theorem State.countFree_freeCount (s : State) : s.countFree.freeCount = s.freeCount + 1 := rfl

/-! ### freeReg -/

@[simp] theorem State.freeReg_regs (s : State) (r : Reg) : (s.freeReg r).regs = s.regs.set r s.freeWord := rfl
@[simp] theorem State.freeReg_st (s : State) (r : Reg) : (s.freeReg r).st = s.st := rfl
@[simp] theorem State.freeReg_key (s : State) (r : Reg) : (s.freeReg r).key = s.key := rfl
@[simp] theorem State.freeReg_run (s : State) (r : Reg) : (s.freeReg r).run = s.run := rfl
@[simp] theorem State.freeReg_mem (s : State) (r : Reg) : (s.freeReg r).mem = s.mem := rfl
@[simp] theorem State.freeReg_pending (s : State) (r : Reg) : (s.freeReg r).pending = s.pending := rfl
@[simp] theorem State.freeReg_par (s : State) (r : Reg) : (s.freeReg r).par = s.par := rfl
@[simp] theorem State.freeReg_inputs (s : State) (r : Reg) : (s.freeReg r).inputs = s.inputs := rfl
@[simp] theorem State.freeReg_deviceScript (s : State) (r : Reg) : (s.freeReg r).deviceScript = s.deviceScript := rfl
@[simp] theorem State.freeReg_deviceLog (s : State) (r : Reg) : (s.freeReg r).deviceLog = s.deviceLog := rfl
@[simp] theorem State.freeReg_freeCount (s : State) (r : Reg) : (s.freeReg r).freeCount = s.freeCount + 1 := rfl

/-! ### freeKey -/

@[simp] theorem State.freeKey_regs (s : State) : s.freeKey.regs = s.regs := rfl
@[simp] theorem State.freeKey_st (s : State) : s.freeKey.st = s.st := rfl
@[simp] theorem State.freeKey_key (s : State) : s.freeKey.key = s.freeWord.setWidth 2 := rfl
@[simp] theorem State.freeKey_run (s : State) : s.freeKey.run = s.run := rfl
@[simp] theorem State.freeKey_mem (s : State) : s.freeKey.mem = s.mem := rfl
@[simp] theorem State.freeKey_pending (s : State) : s.freeKey.pending = s.pending := rfl
@[simp] theorem State.freeKey_par (s : State) : s.freeKey.par = s.par := rfl
@[simp] theorem State.freeKey_inputs (s : State) : s.freeKey.inputs = s.inputs := rfl
@[simp] theorem State.freeKey_deviceScript (s : State) : s.freeKey.deviceScript = s.deviceScript := rfl
@[simp] theorem State.freeKey_deviceLog (s : State) : s.freeKey.deviceLog = s.deviceLog := rfl
@[simp] theorem State.freeKey_freeCount (s : State) : s.freeKey.freeCount = s.freeCount + 1 := rfl

/-! ### freeStatus -/

@[simp] theorem State.freeStatus_regs (s : State) (mask : Word) : (s.freeStatus mask).regs = s.regs := rfl
@[simp] theorem State.freeStatus_st (s : State) (mask : Word) : (s.freeStatus mask).st = (s.st &&& ~~~mask) ||| (s.freeWord &&& mask) := rfl
@[simp] theorem State.freeStatus_key (s : State) (mask : Word) : (s.freeStatus mask).key = s.key := rfl
@[simp] theorem State.freeStatus_run (s : State) (mask : Word) : (s.freeStatus mask).run = s.run := rfl
@[simp] theorem State.freeStatus_mem (s : State) (mask : Word) : (s.freeStatus mask).mem = s.mem := rfl
@[simp] theorem State.freeStatus_pending (s : State) (mask : Word) : (s.freeStatus mask).pending = s.pending := rfl
@[simp] theorem State.freeStatus_par (s : State) (mask : Word) : (s.freeStatus mask).par = s.par := rfl
@[simp] theorem State.freeStatus_inputs (s : State) (mask : Word) : (s.freeStatus mask).inputs = s.inputs := rfl
@[simp] theorem State.freeStatus_deviceScript (s : State) (mask : Word) : (s.freeStatus mask).deviceScript = s.deviceScript := rfl
@[simp] theorem State.freeStatus_deviceLog (s : State) (mask : Word) : (s.freeStatus mask).deviceLog = s.deviceLog := rfl
@[simp] theorem State.freeStatus_freeCount (s : State) (mask : Word) : (s.freeStatus mask).freeCount = s.freeCount + 1 := rfl

/-! ### Registers -/

@[simp] theorem Regs.get_set_self (x : Regs) (r : Reg) (v : Word) : (x.set r v).get r = v := by cases r <;> rfl

theorem Regs.get_set (x : Regs) (r q : Reg) (v : Word) : (x.set r v).get q = if q = r then v else x.get q := by
  cases r <;> cases q <;> rfl

theorem Regs.get_set_ne (x : Regs) (r q : Reg) (v : Word) (h : q ≠ r) : (x.set r v).get q = x.get q := by
  rw [Regs.get_set, if_neg h]

theorem Regs.get_ext {x y : Regs} (h : ∀ r, x.get r = y.get r) : x = y := by
  have h0 := h .r0; have h1 := h .r1; have h2 := h .r2; have h3 := h .r3
  have h4 := h .r4; have h5 := h .r5; have h6 := h .r6; have h7 := h .r7
  cases x; cases y; simp_all [Regs.get]

theorem State.reg_setReg (s : State) (r q : Reg) (v : Word) :
    (s.setReg r v).reg q = if q = r then v else s.reg q := Regs.get_set _ _ _ _

@[simp] theorem State.reg_setReg_self (s : State) (r : Reg) (v : Word) : (s.setReg r v).reg r = v :=
  Regs.get_set_self _ _ _

theorem State.reg_setReg_ne (s : State) (r q : Reg) (v : Word) (h : q ≠ r) : (s.setReg r v).reg q = s.reg q :=
  Regs.get_set_ne _ _ _ _ h

theorem State.setPc_eq_setReg (s : State) (v : Word) : s.setPc v = s.setReg .r0 v := rfl

theorem State.pc_eq_reg (s : State) : s.pc = s.reg .r0 := rfl

@[simp] theorem State.pc_setPc (s : State) (v : Word) : (s.setPc v).pc = v := rfl

theorem State.reg_setPc (s : State) (v : Word) (q : Reg) : (s.setPc v).reg q = if q = .r0 then v else s.reg q := by
  rw [State.setPc_eq_setReg, State.reg_setReg]

theorem State.reg_setPc_ne (s : State) (v : Word) (q : Reg) (h : q ≠ .r0) : (s.setPc v).reg q = s.reg q := by
  rw [State.reg_setPc, if_neg h]

theorem State.pc_setReg_ne (s : State) (r : Reg) (v : Word) (h : r ≠ .r0) : (s.setReg r v).pc = s.pc :=
  Regs.get_set_ne _ _ .r0 _ h.symm

@[simp] theorem State.reg_setSt (s : State) (v : Word) (q : Reg) : (s.setSt v).reg q = s.reg q := rfl
@[simp] theorem State.pc_setSt (s : State) (v : Word) : (s.setSt v).pc = s.pc := rfl
@[simp] theorem State.reg_setKey (s : State) (k : BitVec 2) (q : Reg) : (s.setKey k).reg q = s.reg q := rfl
@[simp] theorem State.pc_setKey (s : State) (k : BitVec 2) : (s.setKey k).pc = s.pc := rfl
@[simp] theorem State.reg_setRun (s : State) (r : RunState) (q : Reg) : (s.setRun r).reg q = s.reg q := rfl
@[simp] theorem State.pc_setRun (s : State) (r : RunState) : (s.setRun r).pc = s.pc := rfl
@[simp] theorem State.reg_setMem (s : State) (m : Memory) (q : Reg) : (s.setMem m).reg q = s.reg q := rfl
@[simp] theorem State.pc_setMem (s : State) (m : Memory) : (s.setMem m).pc = s.pc := rfl
@[simp] theorem State.reg_setPending (s : State) (p : List Request) (q : Reg) : (s.setPending p).reg q = s.reg q := rfl
@[simp] theorem State.pc_setPending (s : State) (p : List Request) : (s.setPending p).pc = s.pc := rfl
@[simp] theorem State.reg_putByte (s : State) (a : Nat) (v : Byte) (q : Reg) : (s.putByte a v).reg q = s.reg q := rfl
@[simp] theorem State.pc_putByte (s : State) (a : Nat) (v : Byte) : (s.putByte a v).pc = s.pc := rfl
@[simp] theorem State.reg_putWord (s : State) (a v : Word) (q : Reg) : (s.putWord a v).reg q = s.reg q := rfl
@[simp] theorem State.pc_putWord (s : State) (a v : Word) : (s.putWord a v).pc = s.pc := rfl
@[simp] theorem State.reg_countFree (s : State) (q : Reg) : s.countFree.reg q = s.reg q := rfl
@[simp] theorem State.pc_countFree (s : State) : s.countFree.pc = s.pc := rfl
@[simp] theorem State.reg_freeKey (s : State) (q : Reg) : s.freeKey.reg q = s.reg q := rfl
@[simp] theorem State.pc_freeKey (s : State) : s.freeKey.pc = s.pc := rfl
@[simp] theorem State.reg_freeStatus (s : State) (mask : Word) (q : Reg) : (s.freeStatus mask).reg q = s.reg q := rfl
@[simp] theorem State.pc_freeStatus (s : State) (mask : Word) : (s.freeStatus mask).pc = s.pc := rfl

/-! ### Bytes and sites -/

@[simp] theorem State.byteAt_setReg (s : State) (r : Reg) (v : Word) (b : Nat) : (s.setReg r v).byteAt b = s.byteAt b := rfl
@[simp] theorem State.wordAt_setReg (s : State) (r : Reg) (v : Word) (b : Word) : (s.setReg r v).wordAt b = s.wordAt b := rfl
@[simp] theorem State.site_setReg (s : State) (r : Reg) (v : Word) (b : Word) : (s.setReg r v).site b = s.site b := rfl
@[simp] theorem State.byteAt_setPc (s : State) (v : Word) (b : Nat) : (s.setPc v).byteAt b = s.byteAt b := rfl
@[simp] theorem State.wordAt_setPc (s : State) (v : Word) (b : Word) : (s.setPc v).wordAt b = s.wordAt b := rfl
@[simp] theorem State.site_setPc (s : State) (v : Word) (b : Word) : (s.setPc v).site b = s.site b := rfl
@[simp] theorem State.byteAt_setSt (s : State) (v : Word) (b : Nat) : (s.setSt v).byteAt b = s.byteAt b := rfl
@[simp] theorem State.wordAt_setSt (s : State) (v : Word) (b : Word) : (s.setSt v).wordAt b = s.wordAt b := rfl
@[simp] theorem State.site_setSt (s : State) (v : Word) (b : Word) : (s.setSt v).site b = s.site b := rfl
@[simp] theorem State.byteAt_setKey (s : State) (k : BitVec 2) (b : Nat) : (s.setKey k).byteAt b = s.byteAt b := rfl
@[simp] theorem State.wordAt_setKey (s : State) (k : BitVec 2) (b : Word) : (s.setKey k).wordAt b = s.wordAt b := rfl
@[simp] theorem State.byteAt_setRun (s : State) (r : RunState) (b : Nat) : (s.setRun r).byteAt b = s.byteAt b := rfl
@[simp] theorem State.wordAt_setRun (s : State) (r : RunState) (b : Word) : (s.setRun r).wordAt b = s.wordAt b := rfl
@[simp] theorem State.site_setRun (s : State) (r : RunState) (b : Word) : (s.setRun r).site b = s.site b := rfl
@[simp] theorem State.site_setMem (s : State) (m : Memory) (b : Word) : (s.setMem m).site b = s.site b := rfl
@[simp] theorem State.byteAt_setPending (s : State) (p : List Request) (b : Nat) : (s.setPending p).byteAt b = s.byteAt b := rfl
@[simp] theorem State.wordAt_setPending (s : State) (p : List Request) (b : Word) : (s.setPending p).wordAt b = s.wordAt b := rfl
@[simp] theorem State.site_setPending (s : State) (p : List Request) (b : Word) : (s.setPending p).site b = s.site b := rfl
@[simp] theorem State.site_putByte (s : State) (a : Nat) (v : Byte) (b : Word) : (s.putByte a v).site b = s.site b := rfl
@[simp] theorem State.site_putWord (s : State) (a v : Word) (b : Word) : (s.putWord a v).site b = s.site b := rfl
@[simp] theorem State.byteAt_countFree (s : State) (b : Nat) : s.countFree.byteAt b = s.byteAt b := rfl
@[simp] theorem State.wordAt_countFree (s : State) (b : Word) : s.countFree.wordAt b = s.wordAt b := rfl
@[simp] theorem State.site_countFree (s : State) (b : Word) : s.countFree.site b = s.site b := rfl
@[simp] theorem State.byteAt_freeReg (s : State) (r : Reg) (b : Nat) : (s.freeReg r).byteAt b = s.byteAt b := rfl
@[simp] theorem State.wordAt_freeReg (s : State) (r : Reg) (b : Word) : (s.freeReg r).wordAt b = s.wordAt b := rfl
@[simp] theorem State.site_freeReg (s : State) (r : Reg) (b : Word) : (s.freeReg r).site b = s.site b := rfl
@[simp] theorem State.byteAt_freeKey (s : State) (b : Nat) : s.freeKey.byteAt b = s.byteAt b := rfl
@[simp] theorem State.wordAt_freeKey (s : State) (b : Word) : s.freeKey.wordAt b = s.wordAt b := rfl
@[simp] theorem State.byteAt_freeStatus (s : State) (mask : Word) (b : Nat) : (s.freeStatus mask).byteAt b = s.byteAt b := rfl
@[simp] theorem State.wordAt_freeStatus (s : State) (mask : Word) (b : Word) : (s.freeStatus mask).wordAt b = s.wordAt b := rfl
@[simp] theorem State.site_freeStatus (s : State) (mask : Word) (b : Word) : (s.freeStatus mask).site b = s.site b := rfl

end Sys2Proof.Machine
end

