-- ==== Sys2Proof/Laws/Memory.lean ====
section
/-! SUPPORT. Program memory: reading after writing, and every memory operation keeps the canonical form. -/

namespace Sys2Proof.Machine

/-! ### Reading after writing -/

theorem Memory.read_erase_self (m : Memory) (a : Nat) : (m.erase a).read a = Memory.unlisted := by
  induction m with
  | nil => rfl
  | cons c rest ih =>
    obtain ⟨k, v⟩ := c
    by_cases h : k = a
    · simp_all [Memory.erase]
    · simp_all [Memory.erase, Memory.read]

theorem Memory.read_erase_ne (m : Memory) (a b : Nat) (h : b ≠ a) : (m.erase a).read b = m.read b := by
  induction m with
  | nil => rfl
  | cons c rest ih =>
    obtain ⟨k, v⟩ := c
    by_cases hk : k = a
    · subst hk; simp_all [Memory.erase, Memory.read, Ne.symm h]
    · simp_all [Memory.erase, Memory.read]

theorem Memory.read_insert_ne (m : Memory) (a b : Nat) (v : Byte) (h : b ≠ a) : (m.insert a v).read b = m.read b := by
  induction m with
  | nil => simp [Memory.insert, Memory.read, h.symm]
  | cons c rest ih =>
    obtain ⟨k, w⟩ := c
    unfold Memory.insert
    split
    · simp [Memory.read, h.symm]
    · simp only [Memory.read, ih]

theorem Memory.read_insert_self (m : Memory) (a : Nat) (v : Byte) (h : ∀ c ∈ m, c.1 ≠ a) : (m.insert a v).read a = v := by
  induction m with
  | nil => simp [Memory.insert, Memory.read]
  | cons c rest ih =>
    obtain ⟨k, w⟩ := c
    have hk : k ≠ a := h (k, w) (by simp)
    unfold Memory.insert
    split
    · simp [Memory.read]
    · simp only [Memory.read, if_neg hk]
      exact ih fun c hc => h c (by simp [hc])

theorem Memory.erase_no_key (m : Memory) (a : Nat) : ∀ c ∈ m.erase a, c.1 ≠ a := by
  intro c hc
  simpa using (List.mem_filter.mp hc).2

/-- A read after a write: the written byte at its address, every other byte as before. -/
theorem Memory.read_write (m : Memory) (a b : Nat) (v : Byte) :
    (m.write a v).read b = if b = a then v else m.read b := by
  unfold Memory.write
  by_cases h : b = a
  · subst h
    split
    · simp_all [Memory.read_erase_self]
    · simp [Memory.read_insert_self _ _ _ (Memory.erase_no_key m b)]
  · split
    · simp [h, Memory.read_erase_ne]
    · simp [h, Memory.read_insert_ne, Memory.read_erase_ne]

/-! ### The canonical form -/

theorem Memory.wf_iff (m : Memory) :
    m.wf = true ↔ (m.Pairwise fun c d => c.1 < d.1) ∧ ∀ c ∈ m, c.2 ≠ Memory.unlisted := by
  simp [Memory.wf]

theorem Memory.mem_insert {m : Memory} {a : Nat} {v : Byte} {c : Host.Cell} (h : c ∈ m.insert a v) :
    c = (a, v) ∨ c ∈ m := by
  induction m with
  | nil => simpa [Memory.insert] using h
  | cons d rest ih =>
    obtain ⟨k, w⟩ := d
    unfold Memory.insert at h
    split at h
    · simpa using h
    · rcases List.mem_cons.mp h with h | h
      · exact .inr (by simp [h])
      · exact (ih h).imp id fun h => by simp [h]

theorem Memory.pairwise_insert {m : Memory} {a : Nat} {v : Byte} (hm : m.Pairwise fun c d => c.1 < d.1)
    (ha : ∀ c ∈ m, c.1 ≠ a) : (m.insert a v).Pairwise fun c d => c.1 < d.1 := by
  induction m with
  | nil => simp [Memory.insert]
  | cons d rest ih =>
    obtain ⟨k, w⟩ := d
    have hrest := List.pairwise_cons.mp hm
    have hk : k ≠ a := ha (k, w) (by simp)
    unfold Memory.insert
    split
    · refine List.pairwise_cons.mpr ⟨fun c hc => ?_, hm⟩
      rcases List.mem_cons.mp hc with rfl | hc
      · assumption
      · exact Nat.lt_trans ‹a < k› (hrest.1 c hc)
    · refine List.pairwise_cons.mpr ⟨fun c hc => ?_, ih hrest.2 fun c hc => ha c (by simp [hc])⟩
      rcases Memory.mem_insert hc with rfl | hc
      · show k < a
        omega
      · exact hrest.1 c hc

theorem Memory.wf_erase {m : Memory} (h : m.wf = true) (a : Nat) : (m.erase a).wf = true := by
  rw [Memory.wf_iff] at h ⊢
  exact ⟨h.1.sublist List.filter_sublist, fun c hc => h.2 c (List.mem_of_mem_filter hc)⟩

/-- A write keeps the canonical form. -/
theorem Memory.wf_write {m : Memory} (h : m.wf = true) (a : Nat) (v : Byte) : (m.write a v).wf = true := by
  unfold Memory.write
  split
  · exact Memory.wf_erase h a
  · have he := (Memory.wf_iff _).mp (Memory.wf_erase h a)
    refine (Memory.wf_iff _).mpr ⟨Memory.pairwise_insert he.1 (Memory.erase_no_key m a), fun c hc => ?_⟩
    rcases Memory.mem_insert hc with rfl | hc
    · assumption
    · exact he.2 c hc

/-- A write lists no address but its own and those listed before. -/
theorem Memory.mem_write {m : Memory} {a : Nat} {v : Byte} {c : Host.Cell} (h : c ∈ m.write a v) :
    c.1 = a ∨ c ∈ m := by
  unfold Memory.write at h
  split at h
  · exact .inr (List.mem_of_mem_filter h)
  · exact (Memory.mem_insert h).imp (fun h => by simp [h]) fun h => List.mem_of_mem_filter h

/-! ### Bytes and words of the state -/

theorem State.byteAt_putByte (s : State) (a b : Nat) (v : Byte) :
    (s.putByte a v).byteAt b = if b = a then v else s.byteAt b := Memory.read_write _ _ _ _

theorem State.byteAt_putWord (s : State) (a v : Word) (b : Nat) :
    (s.putWord a v).byteAt b =
      if b = (a &&& 0xFFFE).toNat + 1 then rightByte v else if b = (a &&& 0xFFFE).toNat then leftByte v else s.byteAt b := by
  simp only [State.putWord, State.byteAt_putByte]

theorem wordOfBytes_bytes (v : Word) : wordOfBytes (leftByte v) (rightByte v) = v := by
  unfold wordOfBytes leftByte rightByte; grind

theorem leftByte_wordOfBytes (l r : Byte) : leftByte (wordOfBytes l r) = l := by
  unfold wordOfBytes leftByte; grind

theorem rightByte_wordOfBytes (l r : Byte) : rightByte (wordOfBytes l r) = r := by
  unfold wordOfBytes rightByte; grind

/-- The word just written (R69). -/
theorem State.wordAt_putWord_self (s : State) (a v : Word) : (s.putWord a v).wordAt a = v := by
  simp [State.wordAt, State.byteAt_putWord, wordOfBytes_bytes]

theorem evenWord_toNat (a : Word) : (a &&& 0xFFFE).toNat % 2 = 0 := by
  have h : ((a &&& 0xFFFE).toNat).testBit 0 = false := by rw [BitVec.testBit_toNat]; simp
  rw [Nat.testBit_zero] at h
  have := of_decide_eq_false h
  omega

/-- A word elsewhere is as before. -/
theorem State.wordAt_putWord_ne (s : State) (a b v : Word) (h : b &&& 0xFFFE ≠ a &&& 0xFFFE) :
    (s.putWord a v).wordAt b = s.wordAt b := by
  have ha := evenWord_toNat a
  have hb := evenWord_toNat b
  have h' : (b &&& 0xFFFE).toNat ≠ (a &&& 0xFFFE).toNat := fun e => h (BitVec.eq_of_toNat_eq e)
  simp only [State.wordAt, State.byteAt_putWord]
  rw [if_neg (by omega), if_neg (by omega), if_neg (by omega), if_neg (by omega)]

/-- Memory stays canonical and below F000 under a write below F000. -/
theorem memorySound_putByte {s : State} (h : memorySound s = true) (a : Nat) (v : Byte) (ha : a < 0xF000) :
    memorySound (s.putByte a v) = true := by
  simp only [memorySound, Bool.and_eq_true, List.all_eq_true, decide_eq_true_eq] at h ⊢
  refine ⟨Memory.wf_write h.1 a v, fun c hc => ?_⟩
  rcases Memory.mem_write hc with h' | h'
  · omega
  · exact h.2 c h'

theorem memorySound_reset : memorySound State.reset = true := by decide

theorem reset_memory_wf : State.reset.mem.wf = true := by decide

end Sys2Proof.Machine
end

