-- ==== Sys2Proof/Laws/Ops.lean ====
section
/-! SUPPORT. What the shared operations can do: results, the bus, registers read as data, address development, running an
instruction, and taking a level. -/

namespace Sys2Proof.Machine

/-! ### Results -/

@[simp] theorem Res.bind_ok {α β : Type} (a : α) (s : State) (f : α → State → Res β) : (Res.ok a s).bind f = f a s := rfl

theorem Res.bind_eq_ok {α β : Type} {x : Res α} {f : α → State → Res β} {b : β} {t : State} :
    x.bind f = .ok b t ↔ ∃ a s, x = .ok a s ∧ f a s = .ok b t := by
  cases x <;> simp [Res.bind]

theorem Res.bind_eq_trap {α β : Type} {x : Res α} {f : α → State → Res β} {p : Option Word} {t : State} :
    x.bind f = .trap p t ↔ x = .trap p t ∨ ∃ a s, x = .ok a s ∧ f a s = .trap p t := by
  cases x <;> simp [Res.bind]

theorem Res.bind_eq_abort {α β : Type} {x : Res α} {f : α → State → Res β} {w : Word} {wd : Width} {t : State} :
    x.bind f = .abort w wd t ↔ x = .abort w wd t ∨ ∃ a s, x = .ok a s ∧ f a s = .abort w wd t := by
  cases x <;> simp [Res.bind]

theorem Res.bind_eq_refuse {α β : Type} {x : Res α} {f : α → State → Res β} {r : Refusal} :
    x.bind f = .refuse r ↔ x = .refuse r ∨ ∃ a s, x = .ok a s ∧ f a s = .refuse r := by
  cases x <;> simp [Res.bind]

theorem Res.onAbort_eq_ok {α : Type} {x : Res α} {f : State → State} {a : α} {t : State} :
    x.onAbort f = .ok a t ↔ x = .ok a t := by
  cases x <;> simp [Res.onAbort]

theorem Res.onAbort_eq_trap {α : Type} {x : Res α} {f : State → State} {p : Option Word} {t : State} :
    x.onAbort f = .trap p t ↔ x = .trap p t := by
  cases x <;> simp [Res.onAbort]

theorem Res.onAbort_eq_abort {α : Type} {x : Res α} {f : State → State} {w : Word} {wd : Width} {t : State} :
    x.onAbort f = .abort w wd t ↔ ∃ s, x = .abort w wd s ∧ t = f s := by
  cases x <;> simp [Res.onAbort, and_assoc, eq_comm]

/-! ### Running an instruction -/

theorem execute_of_ok {code : Code} {body : Ctx → State → Res Unit} {s t : State}
    (h : body (contextOf code s) (startOf code s) = .ok () t) : execute code body s = .next t := by
  unfold execute
  show finish (contextOf code s) (body (contextOf code s) (startOf code s)) = .next t
  rw [h]; rfl

theorem execute_of_trap {code : Code} {body : Ctx → State → Res Unit} {s t : State} {p : Option Word}
    (h : body (contextOf code s) (startOf code s) = .trap p t) :
    execute code body s = raiseUnimplemented s.pc code.first p t := by
  unfold execute
  show finish (contextOf code s) (body (contextOf code s) (startOf code s)) = _
  rw [h]; rfl

theorem execute_of_abort {code : Code} {body : Ctx → State → Res Unit} {s t : State} {a : Word} {wd : Width}
    (h : body (contextOf code s) (startOf code s) = .abort a wd t) :
    execute code body s = raiseAbort s.pc (some code.first) a wd t := by
  unfold execute
  show finish (contextOf code s) (body (contextOf code s) (startOf code s)) = _
  rw [h]; rfl

theorem execute_of_refuse {code : Code} {body : Ctx → State → Res Unit} {s : State} {r : Refusal}
    (h : body (contextOf code s) (startOf code s) = .refuse r) : execute code body s = .refused r := by
  unfold execute
  show finish (contextOf code s) (body (contextOf code s) (startOf code s)) = _
  rw [h]; rfl

/-- All that an instruction can do: its body completes, traps or aborts. -/
theorem execute_next {code : Code} {body : Ctx → State → Res Unit} {s t : State} (h : execute code body s = .next t) :
    body (contextOf code s) (startOf code s) = .ok () t ∨
    (∃ p u, body (contextOf code s) (startOf code s) = .trap p u ∧ raiseUnimplemented s.pc code.first p u = .next t) ∨
    (∃ a wd u, body (contextOf code s) (startOf code s) = .abort a wd u ∧
      raiseAbort s.pc (some code.first) a wd u = .next t) := by
  cases hb : body (contextOf code s) (startOf code s) with
  | ok a u => rw [execute_of_ok hb] at h; cases h; exact .inl rfl
  | trap p u => rw [execute_of_trap hb] at h; exact .inr (.inl ⟨p, u, rfl, h⟩)
  | abort a wd u => rw [execute_of_abort hb] at h; exact .inr (.inr ⟨a, wd, u, rfl, h⟩)
  | refuse r => rw [execute_of_refuse hb] at h; cases h

theorem executeOn_of_implemented {ok : Model → Bool} {code : Code} {body : Ctx → State → Res Unit} {s : State}
    (h : ok s.par.model = true) : executeOn ok code body s = execute code body s := by
  simp [executeOn, execute, h]

theorem executeOn_of_not {ok : Model → Bool} {code : Code} {body : Ctx → State → Res Unit} {s : State}
    (h : ok s.par.model = false) :
    executeOn ok code body s = raiseUnimplemented s.pc code.first none (startOf code s) := by
  unfold executeOn
  exact execute_of_trap (by simp [startOf, h])

@[simp] theorem startOf_par (code : Code) (s : State) : (startOf code s).par = s.par := rfl
@[simp] theorem startOf_st (code : Code) (s : State) : (startOf code s).st = s.st := rfl
@[simp] theorem startOf_mem (code : Code) (s : State) : (startOf code s).mem = s.mem := rfl
@[simp] theorem startOf_key (code : Code) (s : State) : (startOf code s).key = s.key := rfl
@[simp] theorem startOf_site (code : Code) (s : State) (a : Word) : (startOf code s).site a = s.site a := rfl

theorem startOf_reg (code : Code) (s : State) (r : Reg) (h : r ≠ .r0) : (startOf code s).reg r = s.reg r :=
  State.reg_setPc_ne _ _ _ h

/-! ### The bus -/

theorem siteOf_memory_lt {par : Params} {key : BitVec 2} {a : Word} (h : siteOf par key a = .memory) :
    a.toNat < 0xF000 := by
  unfold siteOf at h
  split at h
  · cases h
  · omega

theorem busRead_memory {wd : Width} {a : Word} {s : State} (h : InMemory s wd a) :
    busRead wd a s = .ok (s.fetchData wd a) s := by
  unfold InMemory at h
  simp [busRead, h]

theorem busWrite_memory {wd : Width} {a v : Word} {s : State} (h : InMemory s wd a) :
    busWrite wd a v s = .ok () (s.putData wd a v) := by
  unfold InMemory at h
  simp [busWrite, h]

/-- All that a read can do when it completes. -/
theorem busRead_ok {wd : Width} {a v : Word} {s t : State} (h : busRead wd a s = .ok v t) :
    (InMemory s wd a ∧ v = s.fetchData wd a ∧ t = s) ∨
    (∃ w, s.site (busAddress wd a) = .device ∧
      deviceAccess ⟨busAddress wd a, wd, s.key, none⟩ s = (some w, t) ∧ v = dataOf wd w) := by
  unfold busRead at h
  split at h
  · cases h; exact .inl ⟨‹_›, rfl, rfl⟩
  · split at h
    · cases h; exact .inr ⟨_, ‹_›, ‹_›, rfl⟩
    · cases h
  · cases h

/-- All that a write can do when it completes. -/
theorem busWrite_ok {wd : Width} {a v : Word} {s t : State} (h : busWrite wd a v s = .ok () t) :
    (InMemory s wd a ∧ t = s.putData wd a v) ∨
    (∃ w, s.site (busAddress wd a) = .device ∧
      deviceAccess ⟨busAddress wd a, wd, s.key, some (dataOf wd v)⟩ s = (some w, t)) := by
  unfold busWrite at h
  split at h
  · cases h; exact .inl ⟨‹_›, rfl⟩
  · split at h
    · cases h; exact .inr ⟨_, ‹_›, ‹_›⟩
    · cases h
  · cases h

theorem busRead_no_trap (wd : Width) (a : Word) (s t : State) (p : Option Word) : busRead wd a s ≠ .trap p t := by
  unfold busRead; split <;> (try split) <;> simp

theorem busRead_no_refuse (wd : Width) (a : Word) (s : State) (r : Refusal) : busRead wd a s ≠ .refuse r := by
  unfold busRead; split <;> (try split) <;> simp

theorem busWrite_no_trap (wd : Width) (a v : Word) (s t : State) (p : Option Word) : busWrite wd a v s ≠ .trap p t := by
  unfold busWrite; split <;> (try split) <;> simp

theorem busWrite_no_refuse (wd : Width) (a v : Word) (s : State) (r : Refusal) : busWrite wd a v s ≠ .refuse r := by
  unfold busWrite; split <;> (try split) <;> simp

theorem depositCell_same (s : State) (c : Host.Cell) :
    (s.depositCell c).regs = s.regs ∧ (s.depositCell c).st = s.st ∧ (s.depositCell c).key = s.key ∧
    (s.depositCell c).run = s.run ∧ (s.depositCell c).pending = s.pending ∧ (s.depositCell c).par = s.par ∧
    (s.depositCell c).inputs = s.inputs ∧ (s.depositCell c).freeCount = s.freeCount := by
  unfold State.depositCell
  split <;> simp

theorem depositCells_same (cs : List Host.Cell) : ∀ s : State,
    (s.depositCells cs).regs = s.regs ∧ (s.depositCells cs).st = s.st ∧ (s.depositCells cs).key = s.key ∧
    (s.depositCells cs).run = s.run ∧ (s.depositCells cs).pending = s.pending ∧ (s.depositCells cs).par = s.par ∧
    (s.depositCells cs).inputs = s.inputs ∧ (s.depositCells cs).freeCount = s.freeCount := by
  induction cs with
  | nil => intro s; simp [State.depositCells]
  | cons c cs ih =>
    intro s
    have h := ih (s.depositCell c)
    have hc := depositCell_same s c
    unfold State.depositCells at h ⊢
    simp only [List.foldl_cons]
    simp_all

/-- A device access changes memory, the script and the log only. -/
theorem deviceAccess_same (acc : DeviceAccess) (s : State) :
    (deviceAccess acc s).2.regs = s.regs ∧ (deviceAccess acc s).2.st = s.st ∧ (deviceAccess acc s).2.key = s.key ∧
    (deviceAccess acc s).2.run = s.run ∧ (deviceAccess acc s).2.pending = s.pending ∧
    (deviceAccess acc s).2.par = s.par ∧ (deviceAccess acc s).2.inputs = s.inputs ∧
    (deviceAccess acc s).2.freeCount = s.freeCount := by
  unfold deviceAccess
  split
  · split
    · simp
    · simp [depositCells_same]
  · split
    · simp
    · simp [depositCells_same]

/-! ### Registers read as data and address development -/

theorem dataReg_of_ne (c : Ctx) (r : Reg) (s : State) (h : r ≠ .r0) : dataReg c r s = (s.reg r, s) := by
  cases r <;> first | rfl | exact absurd rfl h

/-- Reading a register as data changes at most the count of free values. -/
theorem dataReg_state (c : Ctx) (r : Reg) (s : State) : (dataReg c r s).2 = s ∨ (dataReg c r s).2 = s.countFree := by
  cases r
  case r0 => unfold dataReg; dsimp only; split <;> simp
  all_goals exact .inl rfl

theorem indexValue_of_ne (xr : Reg) (s : State) (h : xr ≠ .r0) : indexValue xr s = s.reg xr := by
  cases xr <;> first | rfl | exact absurd rfl h

theorem effectiveAddress_noAddress {c : Ctx} {auto : AutoStep} {wd : Width} {m : MemOp} {s : State}
    (h : noAddress m = true) : effectiveAddress c auto wd m s = .trap none s := by
  simp [effectiveAddress, h]

/-- Direct addressing without an automatic step (R146, R148). -/
theorem effectiveAddress_direct {c : Ctx} {wd : Width} {m : MemOp} {s : State} (h : noAddress m = false)
    (hi : m.ind = false) : effectiveAddress c .none wd m s = .ok (m.ext.getD 0 + indexValue m.xr s) s := by
  simp [effectiveAddress, resolveIndirect, h, hi]

/-! ### Taking a level -/

/-- An entry completes only when its four transfers do. -/
theorem takeLevel_next {l : Level} {info ret : Word} {s t : State} (h : takeLevel l info ret s = .next t) :
    entrySequence l info ret s = .ok () t := by
  unfold takeLevel at h
  split at h
  · cases h; assumption
  all_goals cases h

theorem takeLevel_of_ok {l : Level} {info ret : Word} {s t : State} (h : entrySequence l info ret s = .ok () t) :
    takeLevel l info ret s = .next t := by
  simp [takeLevel, h]

/-- The value saved by a trap changes at most the count of free values. -/
theorem trapSavedPc_state (p : Word) (w : Option Word) (s : State) :
    (trapSavedPc p w s).2 = s ∨ (trapSavedPc p w s).2 = s.countFree := by
  unfold trapSavedPc
  split <;> (try split) <;> simp

end Sys2Proof.Machine
end

