-- ==== Sys2Proof/Laws/Entry.lean ====
section
/-! SUPPORT. What taking a level, the unimplemented-instruction trap and the abort leave, where their block is program
memory. -/

namespace Sys2Proof.Machine

/-! ### The words of a block -/

theorem blockBase_words (cpu : BitVec 2) (l : Level) :
    blockBase cpu l &&& 0xFFFE = blockBase cpu l ∧ (blockBase cpu l + 2) &&& 0xFFFE = blockBase cpu l + 2 ∧
    (blockBase cpu l + 4) &&& 0xFFFE = blockBase cpu l + 4 ∧ (blockBase cpu l + 6) &&& 0xFFFE = blockBase cpu l + 6 := by
  cases l with
  | system l => revert cpu; cases l <;> decide
  | unimplemented => revert cpu; decide
  | abort => revert cpu; decide

/-! ### Sites -/

theorem InMemory.of_site {s t : State} {wd : Width} {a : Word} (h : InMemory s wd a)
    (hs : ∀ b, t.site b = s.site b) : InMemory t wd a := (hs _).trans h

/-! ### Entry -/

/-- The state that an entry leaves (R472). -/
def enteredState (l : Level) (info ret : Word) (s : State) : State :=
  let b := blockBase s.par.cpuId l
  ((((((s.putWord b info).putWord (b + 2) s.statusWord).putWord (b + 4) ret).setSt (entryStatus s.par l s.st)).setRun
    .running).setPc (s.wordAt (b + 6)))

theorem putWord3 {b v0 v2 v4 : Word} {s : State} (e0 : b &&& 0xFFFE = b) (e2 : (b + 2) &&& 0xFFFE = b + 2)
    (e4 : (b + 4) &&& 0xFFFE = b + 4) (e6 : (b + 6) &&& 0xFFFE = b + 6) :
    let t := ((s.putWord b v0).putWord (b + 2) v2).putWord (b + 4) v4
    t.wordAt b = v0 ∧ t.wordAt (b + 2) = v2 ∧ t.wordAt (b + 4) = v4 ∧ t.wordAt (b + 6) = s.wordAt (b + 6) ∧
    SameMemoryBut (bytesOfWord b ++ bytesOfWord (b + 2) ++ bytesOfWord (b + 4)) s t := by
  have hne : ∀ x y : Word, x ≠ y → b + x ≠ b + y := by
    intro x y hxy he; exact hxy (by simpa using he)
  have n20 := hne 2 0 (by decide)
  have n40 := hne 4 0 (by decide)
  have n42 := hne 4 2 (by decide)
  have n60 := hne 6 0 (by decide)
  have n62 := hne 6 2 (by decide)
  have n64 := hne 6 4 (by decide)
  rw [show b + 0 = b by simp] at n20 n40 n60
  refine ⟨?_, ?_, ?_, ?_, ?_⟩
  · rw [State.wordAt_putWord_ne _ _ _ _ (by rw [e0, e4]; exact n40.symm),
      State.wordAt_putWord_ne _ _ _ _ (by rw [e0, e2]; exact n20.symm), State.wordAt_putWord_self]
  · rw [State.wordAt_putWord_ne _ _ _ _ (by rw [e2, e4]; exact n42.symm), State.wordAt_putWord_self]
  · rw [State.wordAt_putWord_self]
  · rw [State.wordAt_putWord_ne _ _ _ _ (by rw [e6, e4]; exact n64),
      State.wordAt_putWord_ne _ _ _ _ (by rw [e6, e2]; exact n62),
      State.wordAt_putWord_ne _ _ _ _ (by rw [e6, e0]; exact n60)]
  · intro a ha
    simp only [bytesOfWord, List.mem_append, List.mem_cons, List.not_mem_nil, or_false, e0, e2, e4] at ha
    rw [State.byteAt_putWord, State.byteAt_putWord, State.byteAt_putWord, e0, e2, e4]
    have hs : ∀ x : Word, x &&& 0xFFFE = x → (x + 1).toNat = x.toNat + 1 := by
      intro x hx
      have h2 := evenWord_toNat x
      rw [hx] at h2
      rw [BitVec.toNat_add]
      show (x.toNat + 1) % 65536 = _
      omega
    have b0 := hs _ e0
    have b2 := hs _ e2
    have b4 := hs _ e4
    have c1 := ha _ (.inl (.inl (.inl rfl)))
    have c2 := ha _ (.inl (.inl (.inr rfl)))
    have c3 := ha _ (.inl (.inr (.inl rfl)))
    have c4 := ha _ (.inl (.inr (.inr rfl)))
    have c5 := ha _ (.inr (.inl rfl))
    have c6 := ha _ (.inr (.inr rfl))
    rw [b0] at c2
    rw [b2] at c4
    rw [b4] at c6
    rw [if_neg c6, if_neg c5, if_neg c4, if_neg c3, if_neg c2, if_neg c1]

theorem entrySequence_ok {l : Level} {info ret : Word} {s : State} (h : BlockInMemory s l) :
    entrySequence l info ret s = .ok () (enteredState l info ret s) := by
  have h0 : InMemory s .word (blockBase s.par.cpuId l) := by simpa using h 0 (by simp)
  have h2 := h 2 (by simp)
  have h4 := h 4 (by simp)
  have h6 := h 6 (by simp)
  obtain ⟨e0, e2, e4, e6⟩ := blockBase_words s.par.cpuId l
  have p := (putWord3 (v0 := info) (v2 := s.statusWord) (v4 := ret) (s := s) e0 e2 e4 e6).2.2.2.1
  unfold enteredState
  dsimp only
  rw [← p]
  unfold entrySequence
  dsimp only
  generalize blockBase s.par.cpuId l = b at *
  rw [busWrite_memory h0, Res.bind_ok, State.putData]
  rw [busWrite_memory (s := s.putWord b info) (h2.of_site fun _ => by simp only [State.site_putWord]), Res.bind_ok, State.putData]
  rw [busWrite_memory (s := (s.putWord b info).putWord (b + 2) s.statusWord)
      (h4.of_site fun _ => by simp only [State.site_putWord]), Res.bind_ok, State.putData]
  rw [busRead_memory (s := (((s.putWord b info).putWord (b + 2) s.statusWord).putWord (b + 4) ret).setSt
        (entryStatus (((s.putWord b info).putWord (b + 2) s.statusWord).putWord (b + 4) ret).par l
        (((s.putWord b info).putWord (b + 2) s.statusWord).putWord (b + 4) ret).st))
      (h6.of_site fun _ => by simp only [State.site_setSt, State.site_putWord]), Res.bind_ok, State.fetchData, State.wordAt_setSt]
  simp only [State.putWord_par, State.putWord_st]

/-- An entry with its block in program memory completes, and leaves what R472 says. -/
theorem takeLevel_done {l : Level} {info ret : Word} {s : State} (h : BlockInMemory s l) :
    ∃ t, takeLevel l info ret s = .next t ∧ EntryDone l info ret s t := by
  refine ⟨_, takeLevel_of_ok (entrySequence_ok h), ?_⟩
  obtain ⟨e0, e2, e4, e6⟩ := blockBase_words s.par.cpuId l
  obtain ⟨p0, p2, p4, p6, p⟩ := putWord3 (v0 := info) (v2 := s.statusWord) (v4 := ret) (s := s) e0 e2 e4 e6
  unfold EntryDone enteredState
  dsimp only
  generalize blockBase s.par.cpuId l = b at *
  refine ⟨p0, p2, p4, State.pc_setPc _ _, by simp, by simp, by simp, ⟨by simp, by simp, by simp⟩, ⟨by simp, by simp⟩, ?_, p⟩
  intro r hr _
  rw [State.reg_setPc_ne _ _ _ hr]
  simp only [State.reg, State.setRun_regs, State.setSt_regs, State.putWord_regs]

/-! ### The unimplemented-instruction trap and the abort -/

theorem EntryDone.of_same {l : Level} {info ret : Word} {s u t : State} (h : EntryDone l info ret u t)
    (hr : ∀ r : Reg, r ≠ .r0 → u.reg r = s.reg r) (hst : u.st = s.st) (hm : u.mem = s.mem) (hk : u.key = s.key)
    (hp : u.par = s.par) (hq : u.pending = s.pending) (hi : u.inputs = s.inputs)
    (hd : u.deviceScript = s.deviceScript) (hl : u.deviceLog = s.deviceLog) : EntryDone l info ret s t := by
  obtain ⟨h1, h2, h3, h4, h5, h6, h7, ⟨i1, i2, i3⟩, ⟨d1, d2⟩, h10, h11⟩ := h
  have hb : ∀ a, u.byteAt a = s.byteAt a := fun a => by simp only [State.byteAt, hm]
  have hw : ∀ a, u.wordAt a = s.wordAt a := fun a => by simp only [State.wordAt, hb]
  rw [hp] at h1 h2 h3 h4 h5 h11
  refine ⟨h1, ?_, h3, ?_, ?_, h6, h7.trans hk, ⟨i1.trans hq, i2.trans hp, i3.trans hi⟩, ⟨d1.trans hd, d2.trans hl⟩, ?_, ?_⟩
  · simpa only [State.statusWord, hst] using h2
  · rw [h4, hw]
  · rw [h5, hst]
  · intro r h0 hn; rw [h10 r h0 hn, hr r h0]
  · intro a ha; rw [h11 a ha, hb]

/-- `raise Unimplemented(w)` where `TRAP_SAVED_PC` governs the saved value, by the instruction at the program counter of `s`,
from a state `u` of the same installation. -/
theorem raiseUnimplemented_done {w : Word} {s u : State} (hp : u.par = s.par) (h : BlockInMemory u .unimplemented) :
    ∃ t, raiseUnimplemented s.pc w none u = .next t ∧ Trapped w s u t := by
  have h' : BlockInMemory u.countFree .unimplemented := h
  unfold raiseUnimplemented trapSavedPc Trapped SavedPc
  rw [hp]
  cases s.par.trapSavedPc with
  | current => obtain ⟨t, h1, h2⟩ := takeLevel_done (info := w) (ret := s.pc) h; exact ⟨t, h1, _, rfl, h2⟩
  | afterFirst => obtain ⟨t, h1, h2⟩ := takeLevel_done (info := w) (ret := s.pc + 2) h; exact ⟨t, h1, _, rfl, h2⟩
  | next =>
    dsimp only [Option.bind_some]
    cases hn : suggestedWords w with
    | some n =>
      obtain ⟨t, h1, h2⟩ := takeLevel_done (info := w) (ret := s.pc + BitVec.ofNat 16 (2 * n)) h
      exact ⟨t, h1, _, by simp, h2⟩
    | none =>
      obtain ⟨t, h1, h2⟩ := takeLevel_done (info := w) (ret := u.freeWord) h'
      exact ⟨t, h1, _, by simp, h2.of_same (fun _ _ => rfl) rfl rfl rfl rfl rfl rfl rfl rfl⟩
  | unstated =>
    obtain ⟨t, h1, h2⟩ := takeLevel_done (info := w) (ret := u.freeWord) h'
    exact ⟨t, h1, _, trivial, h2.of_same (fun _ _ => rfl) rfl rfl rfl rfl rfl rfl rfl rfl⟩

/-- An instruction whose body traps without having changed anything. -/
theorem execute_trapped {code : Code} {body : Ctx → State → Res Unit} {s : State}
    (hb : body (contextOf code s) (startOf code s) = .trap none (startOf code s))
    (h : BlockInMemory s .unimplemented) :
    ∃ t, execute code body s = .next t ∧ Trapped code.first s s t := by
  obtain ⟨t, h1, ret, hr, h2⟩ := raiseUnimplemented_done (s := s) (w := code.first) (u := startOf code s) rfl h
  refine ⟨t, (execute_of_trap hb).trans h1, ret, hr, h2.of_same ?_ rfl rfl rfl rfl rfl rfl rfl rfl⟩
  intro r hr; exact State.reg_setPc_ne _ _ _ hr

/-- An instruction that the model does not implement. -/
theorem executeOn_trapped {ok : Model → Bool} {code : Code} {body : Ctx → State → Res Unit} {s : State}
    (hm : ok s.par.model = false) (h : BlockInMemory s .unimplemented) :
    ∃ t, executeOn ok code body s = .next t ∧ Trapped code.first s s t := by
  unfold executeOn
  refine execute_trapped ?_ h
  simp [hm]

end Sys2Proof.Machine
end

