-- ==== Sys2Proof/Laws/Sound.lean ====
section
/-! SUPPORT. Every memory operation keeps program memory canonical and below F000, and what address development, a failing
transfer, an abort and the values that it opens leave. -/

namespace Sys2Proof.Machine

/-! ### Memory stays sound -/

theorem memorySound_of_mem {s t : State} (h : memorySound s = true) (hm : t.mem = s.mem) : memorySound t = true := by
  simpa only [memorySound, hm] using h

theorem memorySound_putWord {s : State} (h : memorySound s = true) (a v : Word) (ha : (a &&& 0xFFFE).toNat < 0xF000) :
    memorySound (s.putWord a v) = true := by
  have he := evenWord_toNat a
  exact memorySound_putByte (memorySound_putByte h _ _ ha) _ _ (by omega)

theorem memorySound_putData {s : State} (h : memorySound s = true) {wd : Width} {a v : Word} (ha : InMemory s wd a) :
    memorySound (s.putData wd a v) = true := by
  have hlt := siteOf_memory_lt ha
  cases wd
  · exact memorySound_putWord h a v hlt
  · exact memorySound_putByte h _ _ hlt

theorem memorySound_depositCell {s : State} (h : memorySound s = true) (c : Host.Cell) :
    memorySound (s.depositCell c) = true := by
  unfold State.depositCell
  split
  · rename_i hc
    simp only [Bool.and_eq_true, decide_eq_true_eq] at hc
    exact memorySound_putByte h _ _ hc.1
  · exact h

theorem memorySound_depositCells (cs : List Host.Cell) : ∀ {s : State}, memorySound s = true →
    memorySound (s.depositCells cs) = true := by
  induction cs with
  | nil => exact fun h => h
  | cons c cs ih => exact fun h => ih (memorySound_depositCell h c)

theorem memorySound_deviceAccess {s : State} (h : memorySound s = true) (acc : DeviceAccess) :
    memorySound (deviceAccess acc s).2 = true := by
  unfold deviceAccess
  split <;> dsimp only <;> split
  · exact memorySound_of_mem h rfl
  · exact memorySound_depositCells _ (memorySound_of_mem h rfl)
  · exact memorySound_of_mem h rfl
  · exact memorySound_depositCells _ (memorySound_of_mem h rfl)

theorem memorySound_freeByte {s : State} (h : memorySound s = true) (a : Word) : memorySound (s.freeByte a) = true := by
  unfold State.freeByte
  split
  · rename_i ha
    exact memorySound_of_mem (memorySound_putByte h a.toNat (rightByte s.freeWord) (siteOf_memory_lt ha)) rfl
  all_goals exact h

theorem memorySound_freeBytes (as : List Word) : ∀ {s : State}, memorySound s = true →
    memorySound (s.freeBytes as) = true := by
  induction as with
  | nil => exact fun h => h
  | cons a as ih => exact fun h => ih (memorySound_freeByte h a)

/-! ### What a transfer keeps -/

/-- The two states have the same registers, status, key, run state, requests, parameters, inputs and count of free values:
what every bus transfer keeps. -/
def SameCore (s t : State) : Prop :=
  t.regs = s.regs ∧ t.st = s.st ∧ t.key = s.key ∧ t.run = s.run ∧ t.pending = s.pending ∧ t.par = s.par ∧
    t.inputs = s.inputs ∧ t.freeCount = s.freeCount

theorem SameCore.refl (s : State) : SameCore s s := ⟨rfl, rfl, rfl, rfl, rfl, rfl, rfl, rfl⟩

theorem SameCore.trans {s t u : State} (h : SameCore s t) (g : SameCore t u) : SameCore s u := by
  obtain ⟨h1, h2, h3, h4, h5, h6, h7, h8⟩ := h
  obtain ⟨g1, g2, g3, g4, g5, g6, g7, g8⟩ := g
  exact ⟨g1.trans h1, g2.trans h2, g3.trans h3, g4.trans h4, g5.trans h5, g6.trans h6, g7.trans h7, g8.trans h8⟩

theorem SameCore.control {s t : State} (h : SameCore s t) : SameControl s t :=
  ⟨⟨h.2.2.2.2.1, h.2.2.2.2.2.1, h.2.2.2.2.2.2.1⟩, h.2.2.1, h.2.2.2.1⟩

theorem SameCore.reg {s t : State} (h : SameCore s t) (r : Reg) : t.reg r = s.reg r := by
  unfold State.reg; rw [h.1]

theorem SameCore.site {s t : State} (h : SameCore s t) (a : Word) : t.site a = s.site a := by
  unfold State.site; rw [h.2.2.2.2.2.1, h.2.2.1]

/-- A read that completes keeps the core and the soundness of memory. -/
theorem busRead_keeps {wd : Width} {a v : Word} {s t : State} (h : busRead wd a s = .ok v t) :
    SameCore s t ∧ (memorySound s = true → memorySound t = true) := by
  rcases busRead_ok h with ⟨-, -, rfl⟩ | ⟨w, -, hd, -⟩
  · exact ⟨.refl _, id⟩
  · obtain rfl : (deviceAccess ⟨busAddress wd a, wd, s.key, none⟩ s).2 = t := by rw [hd]
    exact ⟨deviceAccess_same _ _, fun hs => memorySound_deviceAccess hs _⟩

/-- A read that fails: where it failed, and what it keeps. -/
theorem busRead_abort {wd wd' : Width} {a b : Word} {s t : State} (h : busRead wd a s = .abort b wd' t) :
    b = busAddress wd a ∧ wd' = wd ∧ SameCore s t ∧ (memorySound s = true → memorySound t = true) := by
  unfold busRead at h
  split at h
  · cases h
  · split at h
    · cases h
    · rename_i hd
      cases h
      obtain rfl : (deviceAccess ⟨busAddress wd a, wd, s.key, none⟩ s).2 = t := by rw [hd]
      exact ⟨rfl, rfl, deviceAccess_same _ _, fun hs => memorySound_deviceAccess hs _⟩
  · cases h; exact ⟨rfl, rfl, .refl _, id⟩

/-- A write that completes keeps the core and the soundness of memory. -/
theorem busWrite_keeps {wd : Width} {a v : Word} {s t : State} (h : busWrite wd a v s = .ok () t) :
    SameCore s t ∧ (memorySound s = true → memorySound t = true) := by
  rcases busWrite_ok h with ⟨hm, rfl⟩ | ⟨w, -, hd⟩
  · refine ⟨?_, fun hs => memorySound_putData hs hm⟩
    cases wd <;> exact SameCore.refl _
  · obtain rfl : (deviceAccess ⟨busAddress wd a, wd, s.key, some (dataOf wd v)⟩ s).2 = t := by rw [hd]
    exact ⟨deviceAccess_same _ _, fun hs => memorySound_deviceAccess hs _⟩

/-- A write that fails: where it failed, and what it keeps. -/
theorem busWrite_abort {wd wd' : Width} {a b v : Word} {s t : State} (h : busWrite wd a v s = .abort b wd' t) :
    b = busAddress wd a ∧ wd' = wd ∧ SameCore s t ∧ (memorySound s = true → memorySound t = true) := by
  unfold busWrite at h
  split at h
  · cases h
  · split at h
    · cases h
    · rename_i hd
      cases h
      obtain rfl : (deviceAccess ⟨busAddress wd a, wd, s.key, some (dataOf wd v)⟩ s).2 = t := by rw [hd]
      exact ⟨rfl, rfl, deviceAccess_same _ _, fun hs => memorySound_deviceAccess hs _⟩
  · cases h; exact ⟨rfl, rfl, .refl _, id⟩

/-! ### Address development -/

theorem indirectChain_keeps (n : Nat) : ∀ {t a : Word} {s u : State}, indirectChain n t s = .ok a u →
    SameCore s u ∧ (memorySound s = true → memorySound u = true) := by
  induction n with
  | zero =>
    intro t a s u h
    unfold indirectChain at h
    split at h <;> cases h
    exact ⟨.refl _, id⟩
  | succ n ih =>
    intro t a s u h
    unfold indirectChain at h
    split at h
    · obtain ⟨b, v, h1, h2⟩ := Res.bind_eq_ok.mp h
      have k1 := busRead_keeps h1
      have k2 := ih h2
      exact ⟨k1.1.trans k2.1, k2.2 ∘ k1.2⟩
    · cases h; exact ⟨.refl _, id⟩

/-- The indirect reads change no register, status or key. -/
theorem resolveIndirect_keeps {wd : Width} {ind : Bool} {d0 a : Word} {s u : State}
    (h : resolveIndirect wd ind d0 s = .ok a u) : SameCore s u ∧ (memorySound s = true → memorySound u = true) := by
  unfold resolveIndirect at h
  split at h
  · obtain ⟨b, v, h1, h2⟩ := Res.bind_eq_ok.mp h
    have k1 := busRead_keeps h1
    cases wd
    · have k2 := indirectChain_keeps _ h2
      exact ⟨k1.1.trans k2.1, k2.2 ∘ k1.2⟩
    · cases h2; exact k1
  · cases h; exact ⟨.refl _, id⟩

/-- Stepping a register writes that register and at most counts a free value. -/
theorem stepIndex_eq (c : Ctx) (xr : Reg) (amount : Word) (s : State) :
    ∃ v, stepIndex c xr amount s = s.setReg xr (v + amount) ∨ stepIndex c xr amount s = s.countFree.setReg xr (v + amount) := by
  refine ⟨(dataReg c xr s).1, ?_⟩
  unfold stepIndex
  rcases dataReg_state c xr s with h | h
  · exact .inl (by simp only [h])
  · exact .inr (by simp only [h])

/-- A register other than 0 is stepped from its content. -/
theorem stepIndex_of_ne (c : Ctx) (xr : Reg) (amount : Word) (s : State) (h : xr ≠ .r0) :
    stepIndex c xr amount s = s.setReg xr (s.reg xr + amount) := by
  unfold stepIndex
  rw [dataReg_of_ne c xr s h]

/-- What stepping a register keeps. -/
theorem stepIndex_keeps (c : Ctx) (xr : Reg) (amount : Word) (s : State) :
    (stepIndex c xr amount s).st = s.st ∧ SameControl s (stepIndex c xr amount s) ∧
      (stepIndex c xr amount s).mem = s.mem ∧ SameDevices s (stepIndex c xr amount s) ∧
      ∀ r, r ≠ xr → (stepIndex c xr amount s).reg r = s.reg r := by
  obtain ⟨v, h | h⟩ := stepIndex_eq c xr amount s <;> rw [h] <;>
    refine ⟨rfl, ⟨⟨rfl, rfl, rfl⟩, rfl, rfl⟩, rfl, ⟨rfl, rfl⟩, fun r hr => ?_⟩ <;>
    rw [State.reg_setReg_ne _ _ _ _ hr]
  rfl

/-- All that address development can change when it completes: a stepped index register, the device and, by block transfers,
memory. -/
theorem effectiveAddress_keeps {c : Ctx} {auto : AutoStep} {wd : Width} {m : MemOp} {s t : State} {a : Word}
    (h : effectiveAddress c auto wd m s = .ok a t) :
    noAddress m = false ∧ t.st = s.st ∧ SameControl s t ∧ (memorySound s = true → memorySound t = true) ∧
      ∀ r, auto = .none ∨ r ≠ m.xr → t.reg r = s.reg r := by
  unfold effectiveAddress at h
  split at h
  · cases h
  rename_i hn
  refine ⟨by simpa using hn, ?_⟩
  dsimp only at h
  obtain ⟨b, u, h1, h2⟩ := Res.bind_eq_ok.mp h
  have k := resolveIndirect_keeps h1
  cases auto with
  | none =>
    cases h2
    exact ⟨k.1.2.1, k.1.control, k.2, fun r _ => k.1.reg r⟩
  | inc =>
    cases h2
    obtain ⟨i1, ⟨⟨j1, j2, j3⟩, j4, j5⟩, i3, -, i5⟩ := stepIndex_keeps c m.xr (stepSize wd) u
    obtain ⟨⟨p1, p2, p3⟩, p4, p5⟩ := k.1.control
    refine ⟨i1.trans k.1.2.1, ⟨⟨j1.trans p1, j2.trans p2, j3.trans p3⟩, j4.trans p4, j5.trans p5⟩,
      fun hs => memorySound_of_mem (k.2 hs) i3, fun r hr => ?_⟩
    rw [i5 r (hr.resolve_left (by decide)), k.1.reg r]
  | dec =>
    cases h2
    obtain ⟨i1, ⟨⟨j1, j2, j3⟩, j4, j5⟩, i3, -, i5⟩ := stepIndex_keeps c m.xr (-stepSize wd) s
    obtain ⟨⟨p1, p2, p3⟩, p4, p5⟩ := k.1.control
    refine ⟨k.1.2.1.trans i1, ⟨⟨p1.trans j1, p2.trans j2, p3.trans j3⟩, p4.trans j4, p5.trans j5⟩,
      fun hs => k.2 (memorySound_of_mem hs i3), fun r hr => ?_⟩
    rw [k.1.reg r, i5 r (hr.resolve_left (by decide))]

/-! ### The abort -/

/-- The value that a level-5 or level-6 entry saves (R474). -/
theorem trapSavedPc_saved {s u : State} {w : Word} (hp : u.par = s.par) : SavedPc s w (trapSavedPc s.pc (some w) u).1 := by
  unfold trapSavedPc SavedPc
  rw [hp]
  cases s.par.trapSavedPc with
  | current => rfl
  | afterFirst => rfl
  | next =>
    dsimp only [Option.bind_some]
    cases suggestedWords w <;> simp
  | unstated => trivial

/-- `raise Abort(a)` by the instruction with first word `w` at the program counter of `s`, from a state `u` of the same
installation whose level-6 block is program memory. -/
theorem raiseAbort_done {s u : State} {w a : Word} {wd : Width} (hp : u.par = s.par) (h : BlockInMemory u .abort) :
    ∃ info ret t, raiseAbort s.pc (some w) a wd u = .next t ∧ SavedPc s w ret ∧ EntryDone .abort info ret u t ∧
      info &&& 0xFFFE = a &&& 0xFFFE ∧ (wd = .byte → info = a) := by
  have key : ∀ ret : Word, ∀ v : State, (v = u ∨ v = u.countFree) → SavedPc s w ret →
      ∃ info ret' t, takeLevel .abort (abortInfo a wd v).1 ret (abortInfo a wd v).2 = .next t ∧ SavedPc s w ret' ∧
        EntryDone .abort info ret' u t ∧ info &&& 0xFFFE = a &&& 0xFFFE ∧ (wd = .byte → info = a) := by
    intro ret v hv hr
    have hb : BlockInMemory (abortInfo a wd v).2 .abort := by
      rcases hv with rfl | rfl <;> cases wd <;> exact h
    obtain ⟨t, h1, h2⟩ := takeLevel_done (info := (abortInfo a wd v).1) (ret := ret) hb
    refine ⟨_, ret, t, h1, hr, h2.of_same ?_ ?_ ?_ ?_ ?_ ?_ ?_ ?_ ?_, ?_, ?_⟩
    any_goals rcases hv with rfl | rfl <;> cases wd <;> first | rfl | exact fun _ _ => rfl
    · cases wd
      · show ((a &&& 0xFFFE) ||| (v.freeWord &&& 1)) &&& 0xFFFE = _
        apply BitVec.eq_of_getLsbD_eq
        intro i hi
        simp only [BitVec.getLsbD_and, BitVec.getLsbD_or]
        have : i = 0 ∨ (1 : Word).getLsbD i = false := by
          rcases Nat.eq_zero_or_pos i with h0 | h0
          · exact .inl h0
          · right; revert hi h0; revert i; decide
        rcases this with rfl | h1
        · simp
        · rw [h1]; cases a.getLsbD i <;> cases (0xFFFE : Word).getLsbD i <;> simp
      · rfl
    · intro hw; subst hw; rfl
  exact key _ _ (trapSavedPc_state _ _ u) (trapSavedPc_saved hp)

/-! ### What an aborted instruction leaves open -/

/-- What a part leaves the same it leaves the same under a wider allowance. -/
theorem SameBut.mono {regs regs' : List Reg} {mask mask' : Word} {bytes bytes' : List Word} {s t : State}
    (h : SameBut regs mask bytes s t) (hr : regs ⊆ regs') (hm : mask &&& ~~~mask' = 0) (hb : bytes ⊆ bytes') :
    SameBut regs' mask' bytes' s t := by
  obtain ⟨h1, h2, h3, h4⟩ := h
  refine ⟨fun r h0 hn => h1 r h0 fun hc => hn (hr hc), ?_, fun a ha => h3 a fun w hw => ha w (hb hw), h4⟩
  unfold SameBitsBut at h2 ⊢
  have key : ∀ v : Word, v &&& ~~~mask' = (v &&& ~~~mask) &&& ~~~mask' := fun v => by
    apply BitVec.eq_of_getLsbD_eq
    intro i hi
    have hi' := congrArg (BitVec.getLsbD · i) hm
    simp only [BitVec.getLsbD_and, BitVec.getLsbD_not, hi, decide_true, Bool.true_and] at hi' ⊢
    cases h3 : mask.getLsbD i <;> cases h4 : mask'.getLsbD i <;> cases v.getLsbD i <;> simp_all
  rw [key, key s.st, h2]

theorem SameBut.trans {regs : List Reg} {mask : Word} {bytes : List Word} {s t u : State}
    (h : SameBut regs mask bytes s t) (g : SameBut regs mask bytes t u) : SameBut regs mask bytes s u := by
  obtain ⟨h1, h2, h3, ⟨⟨a1, a2, a3⟩, a4, a5⟩, a6, a7⟩ := h
  obtain ⟨g1, g2, g3, ⟨⟨b1, b2, b3⟩, b4, b5⟩, b6, b7⟩ := g
  exact ⟨fun r h0 hn => (g1 r h0 hn).trans (h1 r h0 hn), Eq.trans g2 h2, fun a ha => (g3 a ha).trans (h3 a ha),
    ⟨⟨b1.trans a1, b2.trans a2, b3.trans a3⟩, b4.trans a4, b5.trans a5⟩, b6.trans a6, b7.trans a7⟩

theorem SameBut.refl (regs : List Reg) (mask : Word) (bytes : List Word) (s : State) : SameBut regs mask bytes s s :=
  ⟨fun _ _ _ => rfl, rfl, fun _ _ => rfl, ⟨⟨rfl, rfl, rfl⟩, rfl, rfl⟩, rfl, rfl⟩

theorem freeReg_same (r : Reg) (s : State) : SameBut [r] 0 [] s (s.freeReg r) :=
  ⟨fun _ _ hn => State.reg_setReg_ne _ _ _ _ fun he => hn (he ▸ List.mem_cons_self), rfl, fun _ _ => rfl,
    ⟨⟨rfl, rfl, rfl⟩, rfl, rfl⟩, rfl, rfl⟩

theorem freeStatus_same (mask : Word) (s : State) : SameBut [] mask [] s (s.freeStatus mask) := by
  refine ⟨fun _ _ _ => rfl, ?_, fun _ _ => rfl, ⟨⟨rfl, rfl, rfl⟩, rfl, rfl⟩, rfl, rfl⟩
  show ((s.st &&& ~~~mask) ||| (s.freeWord &&& mask)) &&& ~~~mask = s.st &&& ~~~mask
  apply BitVec.eq_of_getLsbD_eq
  intro i hi
  simp only [BitVec.getLsbD_and, BitVec.getLsbD_or, BitVec.getLsbD_not, hi, decide_true, Bool.true_and]
  cases s.st.getLsbD i <;> cases mask.getLsbD i <;> simp

/-- All that `abortedOperation` opens: the operation's indicators and, with an automatic step, LP and the stepped register. -/
theorem abortedOperation_same (op : GrOp) (auto : AutoStep) (xr : Reg) (s : State) :
    SameBut (if auto = .none then [] else [xr]) (opIndicators op ||| loopBit auto) [] s (abortedOperation op auto xr s) := by
  have step : ∀ mask : Word, SameBut [xr] mask [] s ((s.freeStatus mask).freeReg xr) := fun mask =>
    ((freeStatus_same mask s).mono (by simp) (by simp) (by simp)).trans
      ((freeReg_same xr _).mono (by simp) (by simp) (by simp))
  cases auto
  · exact (freeStatus_same _ s).mono (by simp) (by simp [loopBit]) (by simp)
  · exact step _
  · exact step _

/-- All that `abortedResult` opens: the accumulator of an operation that stores its result. -/
theorem abortedResult_same (op : GrOp) (ar : Reg) (s : State) :
    SameBut (if storesResult op then [ar] else []) 0 [] s (abortedResult op ar s) := by
  unfold abortedResult
  cases storesResult op
  · exact .refl ..
  · exact freeReg_same ar s

/-- All that `abortedLiteral` opens. -/
theorem abortedLiteral_same (op : GrOp) (ar : Reg) (s : State) :
    SameBut (if storesResult op then [ar] else []) (opIndicators op) [] s (abortedLiteral op ar s) :=
  ((abortedOperation_same op .none .r0 s).mono (by simp) (by simp [loopBit]) (by simp)).trans
    ((abortedResult_same op ar _).mono (by simp) (by simp) (by simp))

/-- All that `abortedMask` opens. -/
theorem abortedMask_same (op : BitOp) (ar : Reg) (s : State) :
    SameBut (if op = .tbit then [] else [ar]) 0x0708 [] s (abortedMask op ar s) := by
  have h : SameBut [ar] 0x0708 [] s ((s.freeStatus 0x0708).freeReg ar) :=
    ((freeStatus_same 0x0708 s).mono (by simp) (by simp) (by simp)).trans
      ((freeReg_same ar _).mono (by simp) (by simp) (by simp))
  cases op
  case tbit => exact freeStatus_same 0x0708 s
  all_goals exact h

/-- All that `abortedOperandRead` opens; nothing after a direct class 7 load. -/
theorem abortedOperandRead_same (cls : GrClass) (op : GrOp) (ar : Reg) (m : MemOp) (s : State) :
    SameBut ((if storesResult op then [ar] else []) ++ if autoStep cls = .none then [] else [m.xr])
      (opIndicators op ||| loopBit (autoStep cls)) [] s (abortedOperandRead cls op ar m s) := by
  have h : ∀ regs, SameBut (regs ++ if autoStep cls = .none then [] else [m.xr])
      (opIndicators op ||| loopBit (autoStep cls)) [] s (abortedOperation op (autoStep cls) m.xr s) := fun regs =>
    (abortedOperation_same op (autoStep cls) m.xr s).mono (List.subset_append_right regs _) (by simp) (List.Subset.refl _)
  unfold abortedOperandRead
  by_cases hd : cls = .load ∧ m.ind = false
  · rw [if_pos hd]; exact .refl ..
  rw [if_neg hd]
  exact (h _).trans ((abortedResult_same op ar _).mono (by simp) (by simp) (by simp))

theorem abortedOperandRead_direct (op : GrOp) (ar : Reg) {m : MemOp} (s : State) (h : m.ind = false) :
    abortedOperandRead .load op ar m s = s := by
  simp [abortedOperandRead, h]

/-- All that `abortedFixed` opens. -/
theorem abortedFixed_same (op : FixedOp) (ar : Reg) (s : State) :
    SameBut (if op = .dsta then [] else [pairHigh ar, pairLow ar]) (fixedIndicators op ar) [] s (abortedFixed op ar s) := by
  have h : SameBut [pairHigh ar, pairLow ar] (fixedIndicators op ar) [] s
      ((s.freeStatus (fixedIndicators op ar)).freeRegs [pairHigh ar, pairLow ar]) :=
    ((freeStatus_same _ s).mono (by simp) (by simp) (by simp)).trans
      (((freeReg_same _ _).mono (by simp) (by simp) (by simp)).trans
        ((freeReg_same _ _).mono (by simp) (by simp) (by simp)))
  cases op
  case dsta => exact freeStatus_same _ s
  all_goals exact h

/-- `abortedDecimal` keeps memory sound. -/
theorem memorySound_abortedDecimal {s : State} (h : memorySound s = true) (op : DecimalOp) (dest : List Word) :
    memorySound (abortedDecimal op dest s) = true := by
  have h' : memorySound (s.freeRegs [.r5, .r6, .r7]) = true := memorySound_of_mem h rfl
  exact memorySound_of_mem
    (memorySound_freeBytes dest (memorySound_freeBytes ((temporaryWords s).flatMap bytesOfWord) h')) rfl

end Sys2Proof.Machine
end

