-- ==== Sys2Proof/Laws/Abort.lean ====
section
/-! SUPPORT. What an abort of the fetch of a second word leaves: all that `abortedSecondWord` can open. -/

namespace Sys2Proof.Machine

/-- Filling bytes of memory with open values changes those bytes only. -/
theorem freeBytes_same (as : List Word) : ∀ s : State, SameBut [] 0 as s (s.freeBytes as) := by
  induction as with
  | nil => exact fun s => .refl ..
  | cons a as ih =>
    intro s
    have h : SameBut [] 0 [a] s (s.freeByte a) := by
      unfold State.freeByte
      split
      · refine ⟨fun _ _ _ => rfl, rfl, fun b hb => ?_, ⟨⟨rfl, rfl, rfl⟩, rfl, rfl⟩, rfl, rfl⟩
        show (s.putByte a.toNat (rightByte s.freeWord)).byteAt b = _
        rw [State.byteAt_putByte, if_neg (hb a List.mem_cons_self)]
      all_goals exact .refl ..
    exact (h.mono (by simp) (by simp) (by simp)).trans ((ih _).mono (by simp) (by simp) (by simp))

/-- All that `abortedDecimal` opens. -/
theorem abortedDecimal_same (op : DecimalOp) (dest : List Word) (s : State) :
    SameBut [.r5, .r6, .r7] (decimalIndicators op) (storageBytes s ++ dest) s (abortedDecimal op dest s) := by
  rw [storageBytes_eq]
  have h1 : SameBut [.r5, .r6, .r7] 0 [] s (s.freeRegs [.r5, .r6, .r7]) :=
    ((freeReg_same .r5 s).mono (by simp) (by simp) (by simp)).trans
      (((freeReg_same .r6 _).mono (by simp) (by simp) (by simp)).trans
        ((freeReg_same .r7 _).mono (by simp) (by simp) (by simp)))
  exact (h1.mono (List.Subset.refl _) (by simp) (by simp)).trans
    (((freeBytes_same ((temporaryWords s).flatMap bytesOfWord) _).mono (by simp) (by simp) (by simp)).trans
      (((freeBytes_same dest _).mono (by simp) (by simp) (by simp)).trans
        ((freeStatus_same _ _).mono (by simp) (by simp) (by simp))))

/-- After a failed fetch of its second word a general register instruction leaves what `abortedOperation` leaves. -/
theorem abortedSecondWord_gr (cls : GrClass) (wd : Width) (op : GrOp) (ar : Reg) (m : MemOp) (s : State) :
    abortedSecondWord (grCode cls wd op ar m).first s = abortedOperation op (autoStep cls) m.xr s := by
  have h : grOpOf op.bits = op := by cases op <;> rfl
  cases cls <;> simp [abortedSecondWord, grCode, memCode, GrClass.bits, autoStep, h]

/-- What `abortedSecondWord` keeps: the parameters, the requests, the inputs, the run state, the device, the status but for the
indicators and LP, memory but for the temporary storage, and memory's soundness; and the key, but after JKEY. -/
theorem abortedSecondWord_keeps (w : Word) (s : State) :
    let t := abortedSecondWord w s
    SameInputs s t ∧ t.run = s.run ∧ SameDevices s t ∧ SameBitsBut 0x078F s.st t.st ∧
      SameMemoryBut (storageBytes s) s t ∧ (memorySound s = true → memorySound t = true) ∧
      (fieldC w ≠ 0 ∨ fieldOp w = 6 → t.key = s.key) := by
  have key : ∀ {regs mask bytes t}, SameBut regs mask bytes s t → mask &&& ~~~(0x078F : Word) = 0 →
      bytes ⊆ storageBytes s → (memorySound s = true → memorySound t = true) →
      SameInputs s t ∧ t.run = s.run ∧ SameDevices s t ∧ SameBitsBut 0x078F s.st t.st ∧
        SameMemoryBut (storageBytes s) s t ∧ (memorySound s = true → memorySound t = true) ∧
        (fieldC w ≠ 0 ∨ fieldOp w = 6 → t.key = s.key) := by
    intro regs mask bytes t h hm hb hs
    obtain ⟨-, h2, h3, ⟨h4, h5, h6⟩, h7⟩ := h.mono (List.Subset.refl _) hm hb
    exact ⟨h4, h6, h7, h2, h3, hs, fun _ => h5⟩
  have gr : ∀ auto, (opIndicators (grOpOf (fieldOp w)) ||| loopBit auto) &&& ~~~(0x078F : Word) = 0 := by
    intro auto; cases grOpOf (fieldOp w) <;> cases auto <;> decide
  have op : ∀ auto, _ := fun auto => key (abortedOperation_same (grOpOf (fieldOp w)) auto (fieldXr w) s) (gr auto)
    (by simp) (fun h => memorySound_of_mem h (by cases auto <;> rfl))
  unfold abortedSecondWord
  split
  · rename_i h0
    split
    · exact key (freeReg_same _ s) (by decide) (by simp) id
    · rename_i h6
      exact ⟨⟨rfl, rfl, rfl⟩, rfl, ⟨rfl, rfl⟩, rfl, fun _ _ => rfl, id,
        fun h => absurd h (not_or.mpr ⟨not_not_intro (BitVec.eq_of_toNat_eq h0), h6⟩)⟩
  · exact op .dec
  · exact op .dec
  · exact op .inc
  · exact op .inc
  · exact op .none
  · exact op .none
  · unfold abortedClass4
    split
    · exact key (abortedLiteral_same _ _ s) (by simpa [loopBit] using gr .none) (by simp)
        (fun h => memorySound_of_mem h (by unfold abortedLiteral abortedResult; cases storesResult _ <;> rfl))
    · split
      · exact key (abortedMask_same _ _ s) (by decide) (by simp)
          (fun h => memorySound_of_mem h (by unfold abortedMask; split <;> rfl))
      · exact key (.refl [] 0 [] s) (by decide) (by simp) id
  · split
    · rename_i op _
      exact key (abortedFixed_same op _ s)
        (by cases op <;> first | decide | (unfold fixedIndicators; cases (fieldAr w).isOdd <;> decide)) (by simp)
        (fun h => memorySound_of_mem h (by unfold abortedFixed; cases op <;> rfl))
    · exact key (.refl [] 0 [] s) (by decide) (by simp) id
  · split
    · rename_i op _
      exact key (abortedDecimal_same op [] s) (by cases op <;> decide) (by simp)
        (fun h => memorySound_abortedDecimal h op [])
    · exact key (.refl [] 0 [] s) (by decide) (by simp) id
  · exact key (.refl [] 0 [] s) (by decide) (by simp) id

end Sys2Proof.Machine
end

