-- ==== Sys2Proof/Laws/Indirect.lean ====
section
/-! SUPPORT. The indirect reads of address development: what they do where one of them meets no memory, and where the chain
exceeds its limit. -/

namespace Sys2Proof.Machine

/-! ## The pointers of a chain -/

/-- The chain from the first pointer is the rest of the chain. -/
theorem pointer_shift (s : State) (d : Word) (j : Nat) : pointer s (pointer s d 0) j = pointer s d (j + 1) := by
  induction j with
  | zero => rfl
  | succ j ih => show s.wordAt _ = s.wordAt _; rw [ih]

/-- Pointers depend on memory only. -/
theorem pointer_of_mem {s v : State} (h : v.mem = s.mem) (d : Word) (j : Nat) : pointer v d j = pointer s d j := by
  have hw : ∀ a, v.wordAt a = s.wordAt a := fun a => by simp only [State.wordAt, State.byteAt, h]
  induction j with
  | zero => exact hw d
  | succ j ih => show v.wordAt _ = s.wordAt _; rw [ih, hw]

theorem readAddress_of_mem {s v : State} (h : v.mem = s.mem) (d : Word) (k : Nat) : readAddress v d k = readAddress s d k := by
  cases k with
  | zero => rfl
  | succ k => exact pointer_of_mem h d k

/-! ## A read where nothing answers -/

/-- The further levels, from the first pointer, up to a read where nothing answers. -/
theorem indirectChain_absent (k : Nat) : ∀ {n : Nat} {d : Word} {s : State}, k < n →
    (∀ j < k, InMemory s .word (pointer s d j)) → (∀ j ≤ k, (pointer s d j).getLsbD 0 = true) →
    s.site (busAddress .word (pointer s d k)) = .nothing →
    indirectChain n (pointer s d 0) s = .abort (busAddress .word (pointer s d k)) .word s := by
  induction k with
  | zero =>
    intro n d s hn _ hb hs
    obtain ⟨n, rfl⟩ : ∃ m, n = m + 1 := ⟨n - 1, by omega⟩
    rw [indirectChain, if_pos (hb 0 (by omega))]
    simp only [busRead, hs, Res.bind]
  | succ k ih =>
    intro n d s hn hm hb hs
    obtain ⟨n, rfl⟩ : ∃ m, n = m + 1 := ⟨n - 1, by omega⟩
    rw [indirectChain, if_pos (hb 0 (by omega)), busRead_memory (hm 0 (by omega)), Res.bind_ok, ← pointer_shift]
    exact ih (d := pointer s d 0) (by omega) (fun j hj => by rw [pointer_shift]; exact hm _ (by omega))
      (fun j hj => by rw [pointer_shift]; exact hb _ (by omega)) (by rw [pointer_shift]; exact hs)

/-- Read number k is the first one where nothing answers. -/
theorem resolveIndirect_absent {k : Nat} {wd : Width} {d : Word} {s : State} (hk : k ≤ 14) (hw : wd = .byte → k = 0)
    (hm : ∀ j < k, InMemory s .word (readAddress s d j) ∧ (pointer s d j).getLsbD 0 = true)
    (hs : s.site (busAddress .word (readAddress s d k)) = .nothing) :
    resolveIndirect wd true d s = .abort (busAddress .word (readAddress s d k)) .word s := by
  unfold resolveIndirect
  rw [if_pos rfl]
  cases k with
  | zero =>
    change s.site (busAddress .word d) = .nothing at hs
    simp only [busRead, hs, Res.bind, readAddress]
  | succ k =>
    cases wd with
    | byte => exact absurd (hw rfl) (by omega)
    | word =>
      have h0 : InMemory s .word d := (hm 0 (by omega)).1
      rw [busRead_memory h0, Res.bind_ok]
      exact indirectChain_absent k (by omega) (fun j hj => (hm (j + 1) (by omega)).1) (fun j hj => (hm j (by omega)).2) hs

/-! ## The limit -/

/-- Fuel for n reads more, and n pointers more with bit 0 set. -/
theorem indirectChain_limit (n : Nat) : ∀ {d : Word} {s : State}, (∀ j < n, InMemory s .word (pointer s d j)) →
    (∀ j ≤ n, (pointer s d j).getLsbD 0 = true) → indirectChain n (pointer s d 0) s = .trap none s := by
  induction n with
  | zero => intro d s _ hb; rw [indirectChain, if_pos (hb 0 (by omega))]
  | succ n ih =>
    intro d s hm hb
    rw [indirectChain, if_pos (hb 0 (by omega)), busRead_memory (hm 0 (by omega)), Res.bind_ok]
    exact ih (d := pointer s d 0) (fun j hj => by rw [pointer_shift]; exact hm _ (by omega))
      (fun j hj => by rw [pointer_shift]; exact hb _ (by omega))

/-- Fifteen reads, and the fifteenth pointer asks for one more. -/
theorem resolveIndirect_limit {d : Word} {s : State}
    (hm : ∀ k < 15, InMemory s .word (readAddress s d k) ∧ (pointer s d k).getLsbD 0 = true) :
    resolveIndirect .word true d s = .trap none s := by
  unfold resolveIndirect
  have h0 : InMemory s .word d := (hm 0 (by omega)).1
  rw [if_pos rfl, busRead_memory h0, Res.bind_ok]
  exact indirectChain_limit 14 (fun j hj => (hm (j + 1) (by omega)).1) (fun j hj => (hm j (by omega)).2)

/-! ## Address development up to the indirect reads -/

/-- Address development through an indirect address: an autodecrement, then the reads from D0, then an autoincrement. -/
theorem effectiveAddress_indirect {code : Code} {auto : AutoStep} {wd : Width} {m : MemOp} {s : State}
    (h : noAddress m = false) (hi : m.ind = true) :
    let v := if auto = .dec then stepped (contextOf code s) .dec wd m (startOf code s) else startOf code s
    v.mem = s.mem ∧ v.par = s.par ∧ v.key = s.key ∧ SameBut (if auto = .dec then [m.xr] else []) 0 [] (startOf code s) v ∧
      effectiveAddress (contextOf code s) auto wd m (startOf code s) =
        (resolveIndirect wd true (developed auto wd m s) v).bind fun a u =>
          .ok a (if auto = .inc then stepIndex (contextOf code s) m.xr (stepSize wd) u else u) := by
  have hx : ∀ a : AutoStep, a ≠ .dec → m.ext.getD 0 + indexValue m.xr (startOf code s) = developed a wd m s := by
    intro a ha
    unfold developed indexEntered
    cases hr : m.xr <;> cases a <;>
      first | rfl | exact absurd rfl ha
  cases auto with
  | none =>
    refine ⟨rfl, rfl, rfl, .refl .., ?_⟩
    simp only [effectiveAddress, h, hi, hx .none (by decide)]
    rfl
  | inc =>
    refine ⟨rfl, rfl, rfl, .refl .., ?_⟩
    simp only [effectiveAddress, h, hi, hx .inc (by decide)]
    rfl
  | dec =>
    have e : stepAmount .dec wd = -stepSize wd := by cases wd <;> rfl
    obtain ⟨k1, k2, k3, k4, k5⟩ := stepIndex_keeps (contextOf code s) m.xr (-stepSize wd) (startOf code s)
    simp only [if_true, stepped, e]
    refine ⟨k3, k2.1.2.1, k2.2.1, ⟨fun r _ hr => k5 r (by simpa using hr), ?_, fun a _ => ?_, k2, k4⟩, ?_⟩
    · show _ &&& _ = _ &&& _
      rw [k1]
    · simp only [State.byteAt, k3]
    · have hd : m.ext.getD 0 + indexValue m.xr (stepIndex (contextOf code s) m.xr (-stepSize wd) (startOf code s)) =
          developed .dec wd m s := by
        unfold developed indexEntered
        by_cases hr : m.xr = .r0
        · rw [hr]; rfl
        · rw [indexValue_of_ne _ _ hr, stepIndex_of_ne _ _ _ _ hr, State.reg_setReg_self, startOf_reg _ _ _ hr, stepSize_eq,
            ← BitVec.sub_eq_add_neg]
          generalize m.xr = r at hr
          cases r <;> first | rfl | exact absurd rfl hr
      simp only [effectiveAddress, h, hi, hd]
      rfl

end Sys2Proof.Machine
end

