-- ==== Sys2Proof/Laws/Interrupt.lean ====
section
/-! SUPPORT. System interrupts: which request is delivered, and what taking a system level leaves. -/

namespace Sys2Proof.Machine

/-- A request is delivered exactly on a level that has one pending; choosing it changes only the counter of free values. -/
theorem chooseRequest_some {l : SysLevel} {s : State} (h : levelPending s.pending l = true) :
    ∃ r t, chooseRequest l s = (some r, t) ∧ r ∈ s.pending ∧ r.level = l ∧ (t = s ∨ t = s.countFree) := by
  have mem : ∀ r ∈ requestsOf l s, r ∈ s.pending ∧ r.level = l := fun r hr => by simpa [requestsOf] using hr
  unfold chooseRequest
  split
  · rename_i e
    simp only [requestsOf, List.filter_eq_nil_iff] at e
    simp only [levelPending, List.any_eq_true] at h
    obtain ⟨r, hr, hl⟩ := h
    exact absurd hl (e r hr)
  · rename_i r e
    exact ⟨r, s, rfl, (mem r (by simp [e])).1, (mem r (by simp [e])).2, .inl rfl⟩
  · rename_i r rs _ e
    have lt : s.freeWord.toNat % (r :: rs).length < (r :: rs).length := Nat.mod_lt _ (by simp)
    have := mem _ (by rw [e]; exact List.getElem_mem lt)
    exact ⟨_, s.countFree, by rw [List.getElem?_eq_getElem lt], this.1, this.2, .inr rfl⟩

/-- Taking a system level with a pending request, where its block is program memory, consumes one request of the level and
enters it with the program counter as the return address. -/
theorem takeSystem_done {l : SysLevel} {s : State} (h : levelPending s.pending l = true) (hb : BlockInMemory s (.system l)) :
    ∃ r t, r ∈ s.pending ∧ r.level = l ∧ takeSystem l s = .next t ∧
      EntryDone (.system l) r.moduleAddr s.pc (s.setPending (s.pending.erase r)) t := by
  obtain ⟨r, u, hc, hr, hl, rfl | rfl⟩ := chooseRequest_some h
  · obtain ⟨t, h1, h2⟩ := takeLevel_done (info := r.moduleAddr) (ret := u.pc)
      (s := u.setPending (u.pending.erase r)) hb
    exact ⟨r, t, hr, hl, by unfold takeSystem; rw [hc]; exact h1, h2⟩
  · obtain ⟨t, h1, h2⟩ := takeLevel_done (info := r.moduleAddr) (ret := s.pc)
      (s := s.countFree.setPending (s.pending.erase r)) hb
    exact ⟨r, t, hr, hl, by unfold takeSystem; rw [hc]; exact h1,
      h2.of_same (fun _ _ => rfl) rfl rfl rfl rfl rfl rfl rfl rfl⟩

/-- Taking a system level answers a next state only by the entry, so that one request of the level is gone. -/
theorem takeSystem_next {l : SysLevel} {s t : State} (h : levelPending s.pending l = true) (ht : takeSystem l s = .next t) :
    ∃ r ∈ s.pending, r.level = l ∧ ∃ u, (u = s ∨ u = s.countFree) ∧
      takeLevel (.system l) r.moduleAddr s.pc (u.setPending (s.pending.erase r)) = .next t := by
  obtain ⟨r, u, hc, hr, hl, hu⟩ := chooseRequest_some h
  unfold takeSystem at ht
  rw [hc] at ht
  refine ⟨r, hr, hl, u, hu, ?_⟩
  rcases hu with rfl | rfl <;> exact ht

end Sys2Proof.Machine
end

