-- ==== Sys2Proof/Laws/PerInstr.lean ====
section
/-! SUPPORT. A law of every instruction, one lemma per constructor: the first word alone tells whether a well-formed
instruction has a second word (`30_encoding.md` R104). -/

namespace Sys2Proof

section
variable {mdl : Model}

theorem secondWord_mem {c : BitVec 4} (h : c = 1 ∨ c = 2 ∨ c = 3 ∨ c = 5 ∨ c = 6 ∨ c = 7) (b : Bool) (op : BitVec 3)
    (ar : Reg) (m : MemOp) :
    hasSecondWord mdl (memCode c b op ar m).first = (memCode c b op ar m).second.isSome := by
  rcases h with rfl | rfl | rfl | rfl | rfl | rfl <;> simp [hasSecondWord, memCode]

theorem secondWord_gr (cls : GrClass) (wd : Width) (op : GrOp) (ar : Reg) (m : MemOp) :
    hasSecondWord mdl (grCode cls wd op ar m).first = (grCode cls wd op ar m).second.isSome :=
  secondWord_mem (by cases cls <;> simp [GrClass.bits]) _ _ _ _

theorem secondWord_jump (ar : Reg) (m : MemOp) :
    hasSecondWord mdl (jumpCode ar m).first = (jumpCode ar m).second.isSome := by
  simp [hasSecondWord, jumpCode, memCode]

theorem secondWord_accReg (op : GrOp) (ar xr : Reg) :
    hasSecondWord mdl (accRegCode op ar xr).first = (accRegCode op ar xr).second.isSome := by
  simp [hasSecondWord, accRegCode]

theorem secondWord_accLit (op : GrOp) (ar xr : Reg) (lit : Word) :
    hasSecondWord mdl (accLitCode op ar xr lit).first = (accLitCode op ar xr lit).second.isSome := by
  simp [hasSecondWord, accLitCode]

theorem constCode_eq (c : BitVec 4) (b : Bool) (op : BitVec 3) (ar : Reg) (k : BitVec 4) :
    (constCode c b op ar k).first = fieldsWord c b op true ar.bits (k.getLsbD 3) (k.extractLsb' 0 3) := by
  unfold constCode fieldsWord; dsimp only; grind

theorem secondWord_const {c : BitVec 4} (h : c = 4 ∨ c = 10) (b : Bool) (op : BitVec 3) (hop : b = false → op ≠ 0)
    (ar : Reg) (k : BitVec 4) :
    hasSecondWord mdl (constCode c b op ar k).first = (constCode c b op ar k).second.isSome := by
  rw [constCode_eq]
  rcases h with rfl | rfl <;> cases b <;> simp_all [hasSecondWord, constCode]

theorem secondWord_accImm (op : GrOp) (ar : Reg) (k : BitVec 4) :
    hasSecondWord mdl (accImmCode op ar k).first = (accImmCode op ar k).second.isSome :=
  secondWord_const (.inl rfl) _ _ (by simp) _ _

theorem secondWord_branch (b : Bool) (t : BitVec 4) (d : BitVec 8) :
    hasSecondWord mdl (branchCode b t d).first = (branchCode b t d).second.isSome := by
  cases b <;> simp [hasSecondWord, branchCode]

theorem secondWord_shiftX (b : Bool) (op : ShiftOp) (ar xr : Reg) :
    hasSecondWord mdl (shiftXCode b op ar xr).first = (shiftXCode b op ar xr).second.isSome := by
  simp [hasSecondWord, shiftXCode]

theorem secondWord_doubleShiftK (op : ShiftOp) (pair : BitVec 2) (k : BitVec 5) :
    hasSecondWord mdl (doubleShiftKCode op pair k).first = (doubleShiftKCode op pair k).second.isSome := by
  have h : fieldC (doubleShiftKCode op pair k).first = 10 := by
    unfold fieldC doubleShiftKCode; dsimp only; grind
  have h2 : hasSecondWord mdl (doubleShiftKCode op pair k).first = false := by
    unfold hasSecondWord; rw [h]; rfl
  exact h2

theorem secondWord_normalize (b : Bool) (op : NormOp) (ar xr : Reg) :
    hasSecondWord mdl (normalizeCode b op ar xr).first = (normalizeCode b op ar xr).second.isSome := by
  simp [hasSecondWord, normalizeCode]

/-- Class 0 words without a second word: OP is not 6, and bits 11..4 are not 81 or bit 3 is 0. -/
theorem secondWord_control {w : Word} (hc : fieldC w = 0) (h6 : fieldOp w ≠ 6)
    (h8 : w.getLsbD 3 = false ∨ fieldT w ≠ 8 ∨ fieldH3 w ≠ 1) : hasSecondWord mdl w = false := by
  rcases h8 with h | h | h <;> simp_all [hasSecondWord]

theorem secondWord_direct (op : DirectOp) (md : AddrMode) (d : BitVec 8) :
    hasSecondWord mdl (directCode op md d).first = (directCode op md d).second.isSome := by
  refine secondWord_control ?_ ?_ (.inr (.inl ?_))
  · unfold fieldC directCode; cases md <;> cases op <;> simp <;> grind
  · have h : fieldOp (directCode op md d).first = op.bits := by
      unfold fieldOp directCode; dsimp only; grind
    rw [h]; cases op <;> decide
  · have h : fieldT (directCode op md d).first = BitVec.ofBool (md == .relative) ++ op.bits := by
      unfold fieldT directCode; dsimp only; grind
    rw [h]; cases op <;> cases md <;> decide

theorem secondWord_shiftK (op : ShiftOp) (ar : Reg) (k : BitVec 4) :
    hasSecondWord mdl (shiftKCode op ar k).first = (shiftKCode op ar k).second.isSome := by
  unfold shiftKCode
  rw [constCode_eq]
  simp [hasSecondWord, constCode]

theorem secondWord_halt : hasSecondWord mdl (controlCode 0 0).first = (controlCode 0 0).second.isSome :=
  secondWord_control (by decide) (by decide) (.inl (by decide))

theorem secondWord_status (b : Bool) (f : BitVec 7) :
    hasSecondWord mdl (statusCode b f).first = (statusCode b f).second.isSome := by
  refine secondWord_control ?_ ?_ (.inr (.inl ?_)) <;> revert b f <;> decide

theorem secondWord_interrupt {h3 : BitVec 4} (h : h3 ≠ 1) (k : BitVec 4) :
    hasSecondWord mdl (interruptCode h3 k).first = (interruptCode h3 k).second.isSome := by
  refine secondWord_control ?_ ?_ (.inr (.inr ?_)) <;> revert h3 k <;> decide

theorem secondWord_skey (k : BitVec 2) :
    hasSecondWord mdl (keyCode k none).first = (keyCode k none).second.isSome := by
  refine secondWord_control ?_ ?_ (.inl ?_) <;> revert k <;> decide

theorem secondWord_jkey (h : mdl.isScientific = true) (k : BitVec 2) (target : Word) :
    hasSecondWord mdl (keyCode k (some target)).first = (keyCode k (some target)).second.isSome := by
  have hw : ∀ k : BitVec 2, fieldC (keyCode k (some 0)).first = 0 ∧ fieldOp (keyCode k (some 0)).first = 0 ∧
      fieldT (keyCode k (some 0)).first = 8 ∧ fieldH3 (keyCode k (some 0)).first = 1 ∧
      (keyCode k (some 0)).first.getLsbD 2 = false ∧ (keyCode k (some 0)).first.getLsbD 3 = true := by decide
  have hk : (keyCode k (some target)).first = (keyCode k (some 0)).first := rfl
  obtain ⟨h1, h2, h3, h4, h5, h6⟩ := hw k
  rw [hk]
  show _ = true
  unfold hasSecondWord
  rw [h1, h2, h3, h4, h5, h6, h]
  simp

theorem secondWord_processor {h3 : BitVec 4} (h : h3 ≠ 1) (xr : Reg) :
    hasSecondWord mdl (processorCode h3 xr).first = (processorCode h3 xr).second.isSome := by
  refine secondWord_control ?_ ?_ (.inr (.inr ?_)) <;> revert h3 <;> cases xr <;> decide

theorem implemented_of_wellFormed {i : Instr} (h : wellFormed mdl i = true) : implementedOn mdl i = true := by
  simp only [wellFormed, Bool.and_eq_true] at h
  exact h.1

theorem secondWord_fetchClear (h : mdl.hasKey = true) (wd : Width) (ar : Reg) (m : MemOp) :
    hasSecondWord mdl (fetchClearCode wd ar m).first = (fetchClearCode wd ar m).second.isSome := by
  simp [hasSecondWord, fetchClearCode, memCode, h]

theorem secondWord_bitK (op : BitOp) (ar : Reg) (k : BitVec 4) :
    hasSecondWord mdl (bitKCode op ar k).first = (bitKCode op ar k).second.isSome :=
  secondWord_const (.inl rfl) _ _ (by cases op <;> decide) _ _

theorem secondWord_bitX (op : BitOp) (ar xr : Reg) :
    hasSecondWord mdl (bitXCode op ar xr).first = (bitXCode op ar xr).second.isSome := by
  cases op <;> simp [hasSecondWord, bitXCode]

theorem secondWord_bitM (h : mdl.isScientific = true) (op : BitOp) (ar xr : Reg) (mask : Word) :
    hasSecondWord mdl (bitMCode op ar xr mask).first = (bitMCode op ar xr mask).second.isSome := by
  cases op <;> simp [hasSecondWord, bitMCode, h, BitOp.bits]

theorem secondWord_move (op : MoveOp) (ar xr : Reg) :
    hasSecondWord mdl (moveCode op ar xr).first = (moveCode op ar xr).second.isSome := by
  cases op <;> simp [hasSecondWord, moveCode, MoveOp.bitI, MoveOp.bitJ]

theorem secondWord_fixed (h : mdl.isScientific = true) (op : FixedOp) (ar : Reg) (m : MemOp) :
    hasSecondWord mdl (fixedCode op ar m).first = (fixedCode op ar m).second.isSome := by
  cases op <;> simp [hasSecondWord, fixedCode, memCode, h, FixedOp.bits]

theorem secondWord_decimal (h : mdl.isDecimal = true) (op : DecimalOp) (reg1 reg2 : Reg) (o : DecOperands) :
    hasSecondWord mdl (decimalCode op reg1 reg2 o).first = (decimalCode op reg1 reg2 o).second.isSome := by
  have hw : (decimalCode op reg1 reg2 o).first =
      fieldsWord 12 (op.bits.getLsbD 3) (op.bits.extractLsb' 0 3) false reg1.bits false reg2.bits := by
    unfold decimalCode fieldsWord; cases op <;> rfl
  rw [hw]
  cases op <;> simp [hasSecondWord, h, decimalCode, DecimalOp.bits]

theorem fieldOp_eq (w : Word) : fieldOp w = (fieldT w).extractLsb' 0 3 := by
  unfold fieldOp fieldT; grind

theorem secondWord_trap0 {w : Word} (hc : fieldC w = 0) (h : undefinedEncoding mdl w = true) :
    hasSecondWord mdl w = false := by
  have hop := fieldOp_eq w
  have hT : w.extractLsb' 8 4 = fieldT w := rfl
  have hH : w.extractLsb' 4 4 = fieldH3 w := rfl
  have hC : w.extractLsb' 12 4 = 0 := hc
  unfold undefinedEncoding at h
  unfold hasSecondWord
  rw [hc, hop]
  simp only [hT, hH, hC] at h
  replace h : (fieldT w == 10 || (fieldT w == 6 || fieldT w == 14) && !mdl.hasKey
      || fieldT w == 8 &&
        (fieldH3 w == 1 && (!mdl.hasKey || w.getLsbD 2 || w.getLsbD 3 && !mdl.isScientific)
         || (fieldH3 w == 2 || fieldH3 w == 3) && (!mdl.isScientific || w.getLsbD 3)
         || !(fieldH3 w == 0 || fieldH3 w == 1 || fieldH3 w == 2 || fieldH3 w == 3 || fieldH3 w == 4 || fieldH3 w == 8
            || fieldH3 w == 12))) = true := h
  show (w.getLsbD 3 && ((fieldT w).extractLsb' 0 3 == 6 && mdl.hasKey
      || fieldT w == 8 && fieldH3 w == 1 && !w.getLsbD 2 && mdl.isScientific)) = false
  clear hop hT hH hC hc
  generalize fieldT w = t at h ⊢
  generalize fieldH3 w = u at h ⊢
  generalize w.getLsbD 3 = x at h ⊢
  generalize w.getLsbD 2 = y at h ⊢
  have hk : mdl.isScientific = true → mdl.hasKey = true := by cases mdl <;> decide
  generalize mdl.hasKey = key at h hk ⊢
  generalize mdl.isScientific = sci at h hk ⊢
  by_cases ht : t = 8
  · subst ht; revert u x y key sci; decide
  · have h8 : (t == 8) = false := by simpa using ht
    simp only [h8, Bool.false_and, Bool.or_false] at h ⊢
    clear h8 ht hk
    revert t x key; decide

theorem secondWord_trap {w : Word} (h : trapEncoding mdl w = true) : hasSecondWord mdl w = false := by
  have hT : w.extractLsb' 8 4 = fieldT w := rfl
  have hO : w.extractLsb' 8 3 = fieldOp w := rfl
  have hC : w.extractLsb' 12 4 = fieldC w := rfl
  have cases16 : ∀ c : BitVec 4, c = 0 ∨ c = 1 ∨ c = 2 ∨ c = 3 ∨ c = 4 ∨ c = 5 ∨ c = 6 ∨ c = 7 ∨ c = 8 ∨ c = 9 ∨ c = 10 ∨
      c = 11 ∨ c = 12 ∨ c = 13 ∨ c = 14 ∨ c = 15 := by decide
  by_cases h0 : fieldC w = 0
  · refine secondWord_trap0 h0 ?_
    simpa [trapEncoding, hC, h0] using h
  · unfold trapEncoding undefinedEncoding at h
    unfold hasSecondWord
    simp only [hT, hO, hC] at h
    rcases cases16 (fieldC w) with hc | hc | hc | hc | hc | hc | hc | hc | hc | hc | hc | hc | hc | hc | hc | hc
    case inl => exact absurd hc h0
    all_goals rw [hc] at h ⊢
    all_goals first | rfl | (exfalso; exact absurd h (show ¬ false = true by decide)) | skip
    · replace h : (!w.getLsbD 11 && fieldOp w != 0 && !mdl.isScientific) = true := h
      show (w.getLsbD 3 && (if w.getLsbD 11 then !w.getLsbD 7 else if fieldOp w = 0 then true
        else mdl.isScientific && fieldOp w != 7 && !w.getLsbD 7)) = false
      simp_all
    · replace h : (!mdl.isScientific || mdl.isScientific && (w.getLsbD 11 || fieldOp w == 6 || fieldOp w == 7)) = true := h
      show (w.getLsbD 3 && mdl.isScientific && !w.getLsbD 11 && !(fieldOp w == 6 || fieldOp w == 7)) = false
      generalize mdl.isScientific = sci at h ⊢
      generalize w.getLsbD 11 = y at h ⊢
      generalize w.getLsbD 3 = x at h ⊢
      generalize (fieldOp w == 6) = p at h ⊢
      generalize (fieldOp w == 7) = q at h ⊢
      clear h0 hc hT hO hC cases16
      revert sci x y p q; decide
    · replace h : (!mdl.isDecimal || (fieldT w).toNat == 0 || (fieldT w).toNat == 1 || (fieldT w).toNat == 6
          || (fieldT w).toNat == 7 || decide (13 ≤ (fieldT w).toNat)
          || mdl.isDecimal && (w.getLsbD 7 || w.getLsbD 3) && !(fieldT w == 0 || fieldT w == 1 || fieldT w == 6
            || fieldT w == 7 || fieldT w == 13 || fieldT w == 14 || fieldT w == 15)) = true := h
      show (mdl.isDecimal && !w.getLsbD 7 && !w.getLsbD 3 && !(fieldT w == 0 || fieldT w == 1 || fieldT w == 6
        || fieldT w == 7 || fieldT w == 13 || fieldT w == 14 || fieldT w == 15)) = false
      generalize mdl.isDecimal = dec at h ⊢
      generalize w.getLsbD 7 = y at h ⊢
      generalize w.getLsbD 3 = x at h ⊢
      generalize fieldT w = t at h ⊢
      clear h0 hc hT hO hC cases16
      revert t dec x y; decide
end

end Sys2Proof

namespace Sys2Proof.Laws.SecondWord

/-- On every model that has the instruction, the rule of R104 on its first word tells whether it has a second. -/
def Statement (i : Instr) : Prop :=
  ∀ mdl : Model, wellFormed mdl i = true → hasSecondWord mdl (code i).first = (code i).second.isSome

theorem movwLoad (ar : Reg) (m : MemOp) : Statement (.movwLoad ar m) :=
  fun _ _ => secondWord_gr _ _ _ _ _

theorem subwLoad (ar : Reg) (m : MemOp) : Statement (.subwLoad ar m) :=
  fun _ _ => secondWord_gr _ _ _ _ _

theorem addwLoad (ar : Reg) (m : MemOp) : Statement (.addwLoad ar m) :=
  fun _ _ => secondWord_gr _ _ _ _ _

theorem andwLoad (ar : Reg) (m : MemOp) : Statement (.andwLoad ar m) :=
  fun _ _ => secondWord_gr _ _ _ _ _

theorem iorwLoad (ar : Reg) (m : MemOp) : Statement (.iorwLoad ar m) :=
  fun _ _ => secondWord_gr _ _ _ _ _

theorem eorwLoad (ar : Reg) (m : MemOp) : Statement (.eorwLoad ar m) :=
  fun _ _ => secondWord_gr _ _ _ _ _

theorem cmpwLoad (ar : Reg) (m : MemOp) : Statement (.cmpwLoad ar m) :=
  fun _ _ => secondWord_gr _ _ _ _ _

theorem tstwLoad (ar : Reg) (m : MemOp) : Statement (.tstwLoad ar m) :=
  fun _ _ => secondWord_gr _ _ _ _ _

theorem movbLoad (ar : Reg) (m : MemOp) : Statement (.movbLoad ar m) :=
  fun _ _ => secondWord_gr _ _ _ _ _

theorem subbLoad (ar : Reg) (m : MemOp) : Statement (.subbLoad ar m) :=
  fun _ _ => secondWord_gr _ _ _ _ _

theorem addbLoad (ar : Reg) (m : MemOp) : Statement (.addbLoad ar m) :=
  fun _ _ => secondWord_gr _ _ _ _ _

theorem andbLoad (ar : Reg) (m : MemOp) : Statement (.andbLoad ar m) :=
  fun _ _ => secondWord_gr _ _ _ _ _

theorem iorbLoad (ar : Reg) (m : MemOp) : Statement (.iorbLoad ar m) :=
  fun _ _ => secondWord_gr _ _ _ _ _

theorem eorbLoad (ar : Reg) (m : MemOp) : Statement (.eorbLoad ar m) :=
  fun _ _ => secondWord_gr _ _ _ _ _

theorem cmpbLoad (ar : Reg) (m : MemOp) : Statement (.cmpbLoad ar m) :=
  fun _ _ => secondWord_gr _ _ _ _ _

theorem tstbLoad (ar : Reg) (m : MemOp) : Statement (.tstbLoad ar m) :=
  fun _ _ => secondWord_gr _ _ _ _ _

theorem movwLoadInc (ar : Reg) (m : MemOp) : Statement (.movwLoadInc ar m) :=
  fun _ _ => secondWord_gr _ _ _ _ _

theorem subwLoadInc (ar : Reg) (m : MemOp) : Statement (.subwLoadInc ar m) :=
  fun _ _ => secondWord_gr _ _ _ _ _

theorem addwLoadInc (ar : Reg) (m : MemOp) : Statement (.addwLoadInc ar m) :=
  fun _ _ => secondWord_gr _ _ _ _ _

theorem andwLoadInc (ar : Reg) (m : MemOp) : Statement (.andwLoadInc ar m) :=
  fun _ _ => secondWord_gr _ _ _ _ _

theorem iorwLoadInc (ar : Reg) (m : MemOp) : Statement (.iorwLoadInc ar m) :=
  fun _ _ => secondWord_gr _ _ _ _ _

theorem eorwLoadInc (ar : Reg) (m : MemOp) : Statement (.eorwLoadInc ar m) :=
  fun _ _ => secondWord_gr _ _ _ _ _

theorem cmpwLoadInc (ar : Reg) (m : MemOp) : Statement (.cmpwLoadInc ar m) :=
  fun _ _ => secondWord_gr _ _ _ _ _

theorem tstwLoadInc (ar : Reg) (m : MemOp) : Statement (.tstwLoadInc ar m) :=
  fun _ _ => secondWord_gr _ _ _ _ _

theorem movbLoadInc (ar : Reg) (m : MemOp) : Statement (.movbLoadInc ar m) :=
  fun _ _ => secondWord_gr _ _ _ _ _

theorem subbLoadInc (ar : Reg) (m : MemOp) : Statement (.subbLoadInc ar m) :=
  fun _ _ => secondWord_gr _ _ _ _ _

theorem addbLoadInc (ar : Reg) (m : MemOp) : Statement (.addbLoadInc ar m) :=
  fun _ _ => secondWord_gr _ _ _ _ _

theorem andbLoadInc (ar : Reg) (m : MemOp) : Statement (.andbLoadInc ar m) :=
  fun _ _ => secondWord_gr _ _ _ _ _

theorem iorbLoadInc (ar : Reg) (m : MemOp) : Statement (.iorbLoadInc ar m) :=
  fun _ _ => secondWord_gr _ _ _ _ _

theorem eorbLoadInc (ar : Reg) (m : MemOp) : Statement (.eorbLoadInc ar m) :=
  fun _ _ => secondWord_gr _ _ _ _ _

theorem cmpbLoadInc (ar : Reg) (m : MemOp) : Statement (.cmpbLoadInc ar m) :=
  fun _ _ => secondWord_gr _ _ _ _ _

theorem tstbLoadInc (ar : Reg) (m : MemOp) : Statement (.tstbLoadInc ar m) :=
  fun _ _ => secondWord_gr _ _ _ _ _

theorem movwLoadDec (ar : Reg) (m : MemOp) : Statement (.movwLoadDec ar m) :=
  fun _ _ => secondWord_gr _ _ _ _ _

theorem subwLoadDec (ar : Reg) (m : MemOp) : Statement (.subwLoadDec ar m) :=
  fun _ _ => secondWord_gr _ _ _ _ _

theorem addwLoadDec (ar : Reg) (m : MemOp) : Statement (.addwLoadDec ar m) :=
  fun _ _ => secondWord_gr _ _ _ _ _

theorem andwLoadDec (ar : Reg) (m : MemOp) : Statement (.andwLoadDec ar m) :=
  fun _ _ => secondWord_gr _ _ _ _ _

theorem iorwLoadDec (ar : Reg) (m : MemOp) : Statement (.iorwLoadDec ar m) :=
  fun _ _ => secondWord_gr _ _ _ _ _

theorem eorwLoadDec (ar : Reg) (m : MemOp) : Statement (.eorwLoadDec ar m) :=
  fun _ _ => secondWord_gr _ _ _ _ _

theorem cmpwLoadDec (ar : Reg) (m : MemOp) : Statement (.cmpwLoadDec ar m) :=
  fun _ _ => secondWord_gr _ _ _ _ _

theorem tstwLoadDec (ar : Reg) (m : MemOp) : Statement (.tstwLoadDec ar m) :=
  fun _ _ => secondWord_gr _ _ _ _ _

theorem movbLoadDec (ar : Reg) (m : MemOp) : Statement (.movbLoadDec ar m) :=
  fun _ _ => secondWord_gr _ _ _ _ _

theorem subbLoadDec (ar : Reg) (m : MemOp) : Statement (.subbLoadDec ar m) :=
  fun _ _ => secondWord_gr _ _ _ _ _

theorem addbLoadDec (ar : Reg) (m : MemOp) : Statement (.addbLoadDec ar m) :=
  fun _ _ => secondWord_gr _ _ _ _ _

theorem andbLoadDec (ar : Reg) (m : MemOp) : Statement (.andbLoadDec ar m) :=
  fun _ _ => secondWord_gr _ _ _ _ _

theorem iorbLoadDec (ar : Reg) (m : MemOp) : Statement (.iorbLoadDec ar m) :=
  fun _ _ => secondWord_gr _ _ _ _ _

theorem eorbLoadDec (ar : Reg) (m : MemOp) : Statement (.eorbLoadDec ar m) :=
  fun _ _ => secondWord_gr _ _ _ _ _

theorem cmpbLoadDec (ar : Reg) (m : MemOp) : Statement (.cmpbLoadDec ar m) :=
  fun _ _ => secondWord_gr _ _ _ _ _

theorem tstbLoadDec (ar : Reg) (m : MemOp) : Statement (.tstbLoadDec ar m) :=
  fun _ _ => secondWord_gr _ _ _ _ _

theorem movwStore (ar : Reg) (m : MemOp) : Statement (.movwStore ar m) :=
  fun _ _ => secondWord_gr _ _ _ _ _

theorem subwStore (ar : Reg) (m : MemOp) : Statement (.subwStore ar m) :=
  fun _ _ => secondWord_gr _ _ _ _ _

theorem addwStore (ar : Reg) (m : MemOp) : Statement (.addwStore ar m) :=
  fun _ _ => secondWord_gr _ _ _ _ _

theorem andwStore (ar : Reg) (m : MemOp) : Statement (.andwStore ar m) :=
  fun _ _ => secondWord_gr _ _ _ _ _

theorem iorwStore (ar : Reg) (m : MemOp) : Statement (.iorwStore ar m) :=
  fun _ _ => secondWord_gr _ _ _ _ _

theorem eorwStore (ar : Reg) (m : MemOp) : Statement (.eorwStore ar m) :=
  fun _ _ => secondWord_gr _ _ _ _ _

theorem cmpwStore (ar : Reg) (m : MemOp) : Statement (.cmpwStore ar m) :=
  fun _ _ => secondWord_gr _ _ _ _ _

theorem tstwStore (ar : Reg) (m : MemOp) : Statement (.tstwStore ar m) :=
  fun _ _ => secondWord_gr _ _ _ _ _

theorem movbStore (ar : Reg) (m : MemOp) : Statement (.movbStore ar m) :=
  fun _ _ => secondWord_gr _ _ _ _ _

theorem subbStore (ar : Reg) (m : MemOp) : Statement (.subbStore ar m) :=
  fun _ _ => secondWord_gr _ _ _ _ _

theorem addbStore (ar : Reg) (m : MemOp) : Statement (.addbStore ar m) :=
  fun _ _ => secondWord_gr _ _ _ _ _

theorem andbStore (ar : Reg) (m : MemOp) : Statement (.andbStore ar m) :=
  fun _ _ => secondWord_gr _ _ _ _ _

theorem iorbStore (ar : Reg) (m : MemOp) : Statement (.iorbStore ar m) :=
  fun _ _ => secondWord_gr _ _ _ _ _

theorem eorbStore (ar : Reg) (m : MemOp) : Statement (.eorbStore ar m) :=
  fun _ _ => secondWord_gr _ _ _ _ _

theorem cmpbStore (ar : Reg) (m : MemOp) : Statement (.cmpbStore ar m) :=
  fun _ _ => secondWord_gr _ _ _ _ _

theorem tstbStore (ar : Reg) (m : MemOp) : Statement (.tstbStore ar m) :=
  fun _ _ => secondWord_gr _ _ _ _ _

theorem movwStoreInc (ar : Reg) (m : MemOp) : Statement (.movwStoreInc ar m) :=
  fun _ _ => secondWord_gr _ _ _ _ _

theorem subwStoreInc (ar : Reg) (m : MemOp) : Statement (.subwStoreInc ar m) :=
  fun _ _ => secondWord_gr _ _ _ _ _

theorem addwStoreInc (ar : Reg) (m : MemOp) : Statement (.addwStoreInc ar m) :=
  fun _ _ => secondWord_gr _ _ _ _ _

theorem andwStoreInc (ar : Reg) (m : MemOp) : Statement (.andwStoreInc ar m) :=
  fun _ _ => secondWord_gr _ _ _ _ _

theorem iorwStoreInc (ar : Reg) (m : MemOp) : Statement (.iorwStoreInc ar m) :=
  fun _ _ => secondWord_gr _ _ _ _ _

theorem eorwStoreInc (ar : Reg) (m : MemOp) : Statement (.eorwStoreInc ar m) :=
  fun _ _ => secondWord_gr _ _ _ _ _

theorem cmpwStoreInc (ar : Reg) (m : MemOp) : Statement (.cmpwStoreInc ar m) :=
  fun _ _ => secondWord_gr _ _ _ _ _

theorem tstwStoreInc (ar : Reg) (m : MemOp) : Statement (.tstwStoreInc ar m) :=
  fun _ _ => secondWord_gr _ _ _ _ _

theorem movbStoreInc (ar : Reg) (m : MemOp) : Statement (.movbStoreInc ar m) :=
  fun _ _ => secondWord_gr _ _ _ _ _

theorem subbStoreInc (ar : Reg) (m : MemOp) : Statement (.subbStoreInc ar m) :=
  fun _ _ => secondWord_gr _ _ _ _ _

theorem addbStoreInc (ar : Reg) (m : MemOp) : Statement (.addbStoreInc ar m) :=
  fun _ _ => secondWord_gr _ _ _ _ _

theorem andbStoreInc (ar : Reg) (m : MemOp) : Statement (.andbStoreInc ar m) :=
  fun _ _ => secondWord_gr _ _ _ _ _

theorem iorbStoreInc (ar : Reg) (m : MemOp) : Statement (.iorbStoreInc ar m) :=
  fun _ _ => secondWord_gr _ _ _ _ _

theorem eorbStoreInc (ar : Reg) (m : MemOp) : Statement (.eorbStoreInc ar m) :=
  fun _ _ => secondWord_gr _ _ _ _ _

theorem cmpbStoreInc (ar : Reg) (m : MemOp) : Statement (.cmpbStoreInc ar m) :=
  fun _ _ => secondWord_gr _ _ _ _ _

theorem tstbStoreInc (ar : Reg) (m : MemOp) : Statement (.tstbStoreInc ar m) :=
  fun _ _ => secondWord_gr _ _ _ _ _

theorem movwStoreDec (ar : Reg) (m : MemOp) : Statement (.movwStoreDec ar m) :=
  fun _ _ => secondWord_gr _ _ _ _ _

theorem subwStoreDec (ar : Reg) (m : MemOp) : Statement (.subwStoreDec ar m) :=
  fun _ _ => secondWord_gr _ _ _ _ _

theorem addwStoreDec (ar : Reg) (m : MemOp) : Statement (.addwStoreDec ar m) :=
  fun _ _ => secondWord_gr _ _ _ _ _

theorem andwStoreDec (ar : Reg) (m : MemOp) : Statement (.andwStoreDec ar m) :=
  fun _ _ => secondWord_gr _ _ _ _ _

theorem iorwStoreDec (ar : Reg) (m : MemOp) : Statement (.iorwStoreDec ar m) :=
  fun _ _ => secondWord_gr _ _ _ _ _

theorem eorwStoreDec (ar : Reg) (m : MemOp) : Statement (.eorwStoreDec ar m) :=
  fun _ _ => secondWord_gr _ _ _ _ _

theorem cmpwStoreDec (ar : Reg) (m : MemOp) : Statement (.cmpwStoreDec ar m) :=
  fun _ _ => secondWord_gr _ _ _ _ _

theorem tstwStoreDec (ar : Reg) (m : MemOp) : Statement (.tstwStoreDec ar m) :=
  fun _ _ => secondWord_gr _ _ _ _ _

theorem movbStoreDec (ar : Reg) (m : MemOp) : Statement (.movbStoreDec ar m) :=
  fun _ _ => secondWord_gr _ _ _ _ _

theorem subbStoreDec (ar : Reg) (m : MemOp) : Statement (.subbStoreDec ar m) :=
  fun _ _ => secondWord_gr _ _ _ _ _

theorem addbStoreDec (ar : Reg) (m : MemOp) : Statement (.addbStoreDec ar m) :=
  fun _ _ => secondWord_gr _ _ _ _ _

theorem andbStoreDec (ar : Reg) (m : MemOp) : Statement (.andbStoreDec ar m) :=
  fun _ _ => secondWord_gr _ _ _ _ _

theorem iorbStoreDec (ar : Reg) (m : MemOp) : Statement (.iorbStoreDec ar m) :=
  fun _ _ => secondWord_gr _ _ _ _ _

theorem eorbStoreDec (ar : Reg) (m : MemOp) : Statement (.eorbStoreDec ar m) :=
  fun _ _ => secondWord_gr _ _ _ _ _

theorem cmpbStoreDec (ar : Reg) (m : MemOp) : Statement (.cmpbStoreDec ar m) :=
  fun _ _ => secondWord_gr _ _ _ _ _

theorem tstbStoreDec (ar : Reg) (m : MemOp) : Statement (.tstbStoreDec ar m) :=
  fun _ _ => secondWord_gr _ _ _ _ _

theorem jump (m : MemOp) : Statement (.jump m) :=
  fun _ _ => secondWord_jump _ _

theorem jsbr (ar : Reg) (m : MemOp) : Statement (.jsbr ar m) :=
  fun _ _ => secondWord_jump _ _

theorem movwReg (ar : Reg) (xr : Reg) : Statement (.movwReg ar xr) :=
  fun _ _ => secondWord_accReg _ _ _

theorem subwReg (ar : Reg) (xr : Reg) : Statement (.subwReg ar xr) :=
  fun _ _ => secondWord_accReg _ _ _

theorem addwReg (ar : Reg) (xr : Reg) : Statement (.addwReg ar xr) :=
  fun _ _ => secondWord_accReg _ _ _

theorem andwReg (ar : Reg) (xr : Reg) : Statement (.andwReg ar xr) :=
  fun _ _ => secondWord_accReg _ _ _

theorem iorwReg (ar : Reg) (xr : Reg) : Statement (.iorwReg ar xr) :=
  fun _ _ => secondWord_accReg _ _ _

theorem eorwReg (ar : Reg) (xr : Reg) : Statement (.eorwReg ar xr) :=
  fun _ _ => secondWord_accReg _ _ _

theorem cmpwReg (ar : Reg) (xr : Reg) : Statement (.cmpwReg ar xr) :=
  fun _ _ => secondWord_accReg _ _ _

theorem tstwReg (ar : Reg) (xr : Reg) : Statement (.tstwReg ar xr) :=
  fun _ _ => secondWord_accReg _ _ _

theorem movwLit (ar : Reg) (xr : Reg) (lit : Word) : Statement (.movwLit ar xr lit) :=
  fun _ _ => secondWord_accLit _ _ _ _

theorem subwLit (ar : Reg) (xr : Reg) (lit : Word) : Statement (.subwLit ar xr lit) :=
  fun _ _ => secondWord_accLit _ _ _ _

theorem addwLit (ar : Reg) (xr : Reg) (lit : Word) : Statement (.addwLit ar xr lit) :=
  fun _ _ => secondWord_accLit _ _ _ _

theorem andwLit (ar : Reg) (xr : Reg) (lit : Word) : Statement (.andwLit ar xr lit) :=
  fun _ _ => secondWord_accLit _ _ _ _

theorem iorwLit (ar : Reg) (xr : Reg) (lit : Word) : Statement (.iorwLit ar xr lit) :=
  fun _ _ => secondWord_accLit _ _ _ _

theorem eorwLit (ar : Reg) (xr : Reg) (lit : Word) : Statement (.eorwLit ar xr lit) :=
  fun _ _ => secondWord_accLit _ _ _ _

theorem cmpwLit (ar : Reg) (xr : Reg) (lit : Word) : Statement (.cmpwLit ar xr lit) :=
  fun _ _ => secondWord_accLit _ _ _ _

theorem tstwLit (ar : Reg) (xr : Reg) (lit : Word) : Statement (.tstwLit ar xr lit) :=
  fun _ _ => secondWord_accLit _ _ _ _

theorem movwImm (ar : Reg) (k : BitVec 4) : Statement (.movwImm ar k) :=
  fun _ _ => secondWord_accImm _ _ _

theorem subwImm (ar : Reg) (k : BitVec 4) : Statement (.subwImm ar k) :=
  fun _ _ => secondWord_accImm _ _ _

theorem addwImm (ar : Reg) (k : BitVec 4) : Statement (.addwImm ar k) :=
  fun _ _ => secondWord_accImm _ _ _

theorem andwImm (ar : Reg) (k : BitVec 4) : Statement (.andwImm ar k) :=
  fun _ _ => secondWord_accImm _ _ _

theorem iorwImm (ar : Reg) (k : BitVec 4) : Statement (.iorwImm ar k) :=
  fun _ _ => secondWord_accImm _ _ _

theorem eorwImm (ar : Reg) (k : BitVec 4) : Statement (.eorwImm ar k) :=
  fun _ _ => secondWord_accImm _ _ _

theorem cmpwImm (ar : Reg) (k : BitVec 4) : Statement (.cmpwImm ar k) :=
  fun _ _ => secondWord_accImm _ _ _

theorem tstwImm (ar : Reg) (k : BitVec 4) : Statement (.tstwImm ar k) :=
  fun _ _ => secondWord_accImm _ _ _

theorem nopr (d : BitVec 8) : Statement (.nopr d) :=
  fun _ _ => secondWord_branch _ _ _

theorem brun (d : BitVec 8) : Statement (.brun d) :=
  fun _ _ => secondWord_branch _ _ _

theorem beqt (d : BitVec 8) : Statement (.beqt d) :=
  fun _ _ => secondWord_branch _ _ _

theorem beqf (d : BitVec 8) : Statement (.beqf d) :=
  fun _ _ => secondWord_branch _ _ _

theorem bgtt (d : BitVec 8) : Statement (.bgtt d) :=
  fun _ _ => secondWord_branch _ _ _

theorem bgtf (d : BitVec 8) : Statement (.bgtf d) :=
  fun _ _ => secondWord_branch _ _ _

theorem bovt (d : BitVec 8) : Statement (.bovt d) :=
  fun _ _ => secondWord_branch _ _ _

theorem bovf (d : BitVec 8) : Statement (.bovf d) :=
  fun _ _ => secondWord_branch _ _ _

theorem bcyt (d : BitVec 8) : Statement (.bcyt d) :=
  fun _ _ => secondWord_branch _ _ _

theorem bcyf (d : BitVec 8) : Statement (.bcyf d) :=
  fun _ _ => secondWord_branch _ _ _

theorem bf1t (d : BitVec 8) : Statement (.bf1t d) :=
  fun _ _ => secondWord_branch _ _ _

theorem bf1f (d : BitVec 8) : Statement (.bf1f d) :=
  fun _ _ => secondWord_branch _ _ _

theorem bf2t (d : BitVec 8) : Statement (.bf2t d) :=
  fun _ _ => secondWord_branch _ _ _

theorem bf2f (d : BitVec 8) : Statement (.bf2f d) :=
  fun _ _ => secondWord_branch _ _ _

theorem bf3t (d : BitVec 8) : Statement (.bf3t d) :=
  fun _ _ => secondWord_branch _ _ _

theorem bf3f (d : BitVec 8) : Statement (.bf3f d) :=
  fun _ _ => secondWord_branch _ _ _

theorem blpt (d : BitVec 8) : Statement (.blpt d) :=
  fun _ _ => secondWord_branch _ _ _

theorem blpf (d : BitVec 8) : Statement (.blpf d) :=
  fun _ _ => secondWord_branch _ _ _

theorem bodt (d : BitVec 8) : Statement (.bodt d) :=
  fun _ _ => secondWord_branch _ _ _

theorem bodf (d : BitVec 8) : Statement (.bodf d) :=
  fun _ _ => secondWord_branch _ _ _

theorem bzet (d : BitVec 8) : Statement (.bzet d) :=
  fun _ _ => secondWord_branch _ _ _

theorem bzef (d : BitVec 8) : Statement (.bzef d) :=
  fun _ _ => secondWord_branch _ _ _

theorem bngt (d : BitVec 8) : Statement (.bngt d) :=
  fun _ _ => secondWord_branch _ _ _

theorem bngf (d : BitVec 8) : Statement (.bngf d) :=
  fun _ _ => secondWord_branch _ _ _

theorem bltt (d : BitVec 8) : Statement (.bltt d) :=
  fun _ _ => secondWord_branch _ _ _

theorem bltf (d : BitVec 8) : Statement (.bltf d) :=
  fun _ _ => secondWord_branch _ _ _

theorem slaoX (ar : Reg) (xr : Reg) : Statement (.slaoX ar xr) :=
  fun _ _ => secondWord_shiftX _ _ _ _

theorem slaoK (ar : Reg) (k : BitVec 4) : Statement (.slaoK ar k) :=
  fun _ _ => secondWord_shiftK _ _ _

theorem slllX (ar : Reg) (xr : Reg) : Statement (.slllX ar xr) :=
  fun _ _ => secondWord_shiftX _ _ _ _

theorem slllK (ar : Reg) (k : BitVec 4) : Statement (.slllK ar k) :=
  fun _ _ => secondWord_shiftK _ _ _

theorem slloX (ar : Reg) (xr : Reg) : Statement (.slloX ar xr) :=
  fun _ _ => secondWord_shiftX _ _ _ _

theorem slloK (ar : Reg) (k : BitVec 4) : Statement (.slloK ar k) :=
  fun _ _ => secondWord_shiftK _ _ _

theorem sllcX (ar : Reg) (xr : Reg) : Statement (.sllcX ar xr) :=
  fun _ _ => secondWord_shiftX _ _ _ _

theorem sllcK (ar : Reg) (k : BitVec 4) : Statement (.sllcK ar k) :=
  fun _ _ => secondWord_shiftK _ _ _

theorem sraoX (ar : Reg) (xr : Reg) : Statement (.sraoX ar xr) :=
  fun _ _ => secondWord_shiftX _ _ _ _

theorem sraoK (ar : Reg) (k : BitVec 4) : Statement (.sraoK ar k) :=
  fun _ _ => secondWord_shiftK _ _ _

theorem srllX (ar : Reg) (xr : Reg) : Statement (.srllX ar xr) :=
  fun _ _ => secondWord_shiftX _ _ _ _

theorem srllK (ar : Reg) (k : BitVec 4) : Statement (.srllK ar k) :=
  fun _ _ => secondWord_shiftK _ _ _

theorem srloX (ar : Reg) (xr : Reg) : Statement (.srloX ar xr) :=
  fun _ _ => secondWord_shiftX _ _ _ _

theorem srloK (ar : Reg) (k : BitVec 4) : Statement (.srloK ar k) :=
  fun _ _ => secondWord_shiftK _ _ _

theorem srlcX (ar : Reg) (xr : Reg) : Statement (.srlcX ar xr) :=
  fun _ _ => secondWord_shiftX _ _ _ _

theorem srlcK (ar : Reg) (k : BitVec 4) : Statement (.srlcK ar k) :=
  fun _ _ => secondWord_shiftK _ _ _

theorem slan (ar : Reg) (xr : Reg) : Statement (.slan ar xr) :=
  fun _ _ => secondWord_normalize _ _ _ _

theorem slln (ar : Reg) (xr : Reg) : Statement (.slln ar xr) :=
  fun _ _ => secondWord_normalize _ _ _ _

theorem sran (ar : Reg) (xr : Reg) : Statement (.sran ar xr) :=
  fun _ _ => secondWord_normalize _ _ _ _

theorem srln (ar : Reg) (xr : Reg) : Statement (.srln ar xr) :=
  fun _ _ => secondWord_normalize _ _ _ _

theorem dlan (ar : Reg) (xr : Reg) : Statement (.dlan ar xr) :=
  fun _ _ => secondWord_normalize _ _ _ _

theorem dlln (ar : Reg) (xr : Reg) : Statement (.dlln ar xr) :=
  fun _ _ => secondWord_normalize _ _ _ _

theorem dran (ar : Reg) (xr : Reg) : Statement (.dran ar xr) :=
  fun _ _ => secondWord_normalize _ _ _ _

theorem drln (ar : Reg) (xr : Reg) : Statement (.drln ar xr) :=
  fun _ _ => secondWord_normalize _ _ _ _

theorem dlaoX (ar : Reg) (xr : Reg) : Statement (.dlaoX ar xr) :=
  fun _ _ => secondWord_shiftX _ _ _ _

theorem dlaoK (pair : BitVec 2) (k : BitVec 5) : Statement (.dlaoK pair k) :=
  fun _ _ => secondWord_doubleShiftK _ _ _

theorem dlllX (ar : Reg) (xr : Reg) : Statement (.dlllX ar xr) :=
  fun _ _ => secondWord_shiftX _ _ _ _

theorem dlllK (pair : BitVec 2) (k : BitVec 5) : Statement (.dlllK pair k) :=
  fun _ _ => secondWord_doubleShiftK _ _ _

theorem dlloX (ar : Reg) (xr : Reg) : Statement (.dlloX ar xr) :=
  fun _ _ => secondWord_shiftX _ _ _ _

theorem dlloK (pair : BitVec 2) (k : BitVec 5) : Statement (.dlloK pair k) :=
  fun _ _ => secondWord_doubleShiftK _ _ _

theorem dllcX (ar : Reg) (xr : Reg) : Statement (.dllcX ar xr) :=
  fun _ _ => secondWord_shiftX _ _ _ _

theorem dllcK (pair : BitVec 2) (k : BitVec 5) : Statement (.dllcK pair k) :=
  fun _ _ => secondWord_doubleShiftK _ _ _

theorem draoX (ar : Reg) (xr : Reg) : Statement (.draoX ar xr) :=
  fun _ _ => secondWord_shiftX _ _ _ _

theorem draoK (pair : BitVec 2) (k : BitVec 5) : Statement (.draoK pair k) :=
  fun _ _ => secondWord_doubleShiftK _ _ _

theorem drllX (ar : Reg) (xr : Reg) : Statement (.drllX ar xr) :=
  fun _ _ => secondWord_shiftX _ _ _ _

theorem drllK (pair : BitVec 2) (k : BitVec 5) : Statement (.drllK pair k) :=
  fun _ _ => secondWord_doubleShiftK _ _ _

theorem drloX (ar : Reg) (xr : Reg) : Statement (.drloX ar xr) :=
  fun _ _ => secondWord_shiftX _ _ _ _

theorem drloK (pair : BitVec 2) (k : BitVec 5) : Statement (.drloK pair k) :=
  fun _ _ => secondWord_doubleShiftK _ _ _

theorem drlcX (ar : Reg) (xr : Reg) : Statement (.drlcX ar xr) :=
  fun _ _ => secondWord_shiftX _ _ _ _

theorem drlcK (pair : BitVec 2) (k : BitVec 5) : Statement (.drlcK pair k) :=
  fun _ _ => secondWord_doubleShiftK _ _ _

theorem rsts (f : BitVec 7) : Statement (.rsts f) :=
  fun _ _ => secondWord_status _ _

theorem sets (f : BitVec 7) : Statement (.sets f) :=
  fun _ _ => secondWord_status _ _

theorem enbl (k : BitVec 4) : Statement (.enbl k) :=
  fun _ _ => secondWord_interrupt (by decide) _

theorem enbw (k : BitVec 4) : Statement (.enbw k) :=
  fun _ _ => secondWord_interrupt (by decide) _

theorem dsbl (k : BitVec 4) : Statement (.dsbl k) :=
  fun _ _ => secondWord_interrupt (by decide) _

theorem dsbw (k : BitVec 4) : Statement (.dsbw k) :=
  fun _ _ => secondWord_interrupt (by decide) _

theorem stsm (md : AddrMode) (d : BitVec 8) : Statement (.stsm md d) :=
  fun _ _ => secondWord_direct _ _ _

theorem regm (md : AddrMode) (d : BitVec 8) : Statement (.regm md d) :=
  fun _ _ => secondWord_direct _ _ _

theorem retn (md : AddrMode) (d : BitVec 8) : Statement (.retn md d) :=
  fun _ _ => secondWord_direct _ _ _

theorem msts (md : AddrMode) (d : BitVec 8) : Statement (.msts md d) :=
  fun _ _ => secondWord_direct _ _ _

theorem mreg (md : AddrMode) (d : BitVec 8) : Statement (.mreg md d) :=
  fun _ _ => secondWord_direct _ _ _

theorem fclw (ar : Reg) (m : MemOp) : Statement (.fclw ar m) :=
  fun _ h => secondWord_fetchClear (implemented_of_wellFormed h) _ _ _

theorem fclb (ar : Reg) (m : MemOp) : Statement (.fclb ar m) :=
  fun _ h => secondWord_fetchClear (implemented_of_wellFormed h) _ _ _

theorem skey (k : BitVec 2) : Statement (.skey k) :=
  fun _ _ => secondWord_skey _

theorem jkey (k : BitVec 2) (target : Word) : Statement (.jkey k target) :=
  fun _ h => secondWord_jkey (implemented_of_wellFormed h) _ _

theorem lcpu (xr : Reg) : Statement (.lcpu xr) :=
  fun _ _ => secondWord_processor (by decide) _

theorem lkey (xr : Reg) : Statement (.lkey xr) :=
  fun _ _ => secondWord_processor (by decide) _

theorem rbitX (ar : Reg) (xr : Reg) : Statement (.rbitX ar xr) :=
  fun _ _ => secondWord_bitX _ _ _

theorem rbitK (ar : Reg) (k : BitVec 4) : Statement (.rbitK ar k) :=
  fun _ _ => secondWord_bitK _ _ _

theorem rbitM (ar : Reg) (xr : Reg) (mask : Word) : Statement (.rbitM ar xr mask) :=
  fun _ h => secondWord_bitM (implemented_of_wellFormed h) _ _ _ _

theorem sbitX (ar : Reg) (xr : Reg) : Statement (.sbitX ar xr) :=
  fun _ _ => secondWord_bitX _ _ _

theorem sbitK (ar : Reg) (k : BitVec 4) : Statement (.sbitK ar k) :=
  fun _ _ => secondWord_bitK _ _ _

theorem sbitM (ar : Reg) (xr : Reg) (mask : Word) : Statement (.sbitM ar xr mask) :=
  fun _ h => secondWord_bitM (implemented_of_wellFormed h) _ _ _ _

theorem cbitX (ar : Reg) (xr : Reg) : Statement (.cbitX ar xr) :=
  fun _ _ => secondWord_bitX _ _ _

theorem cbitK (ar : Reg) (k : BitVec 4) : Statement (.cbitK ar k) :=
  fun _ _ => secondWord_bitK _ _ _

theorem cbitM (ar : Reg) (xr : Reg) (mask : Word) : Statement (.cbitM ar xr mask) :=
  fun _ h => secondWord_bitM (implemented_of_wellFormed h) _ _ _ _

theorem ibitX (ar : Reg) (xr : Reg) : Statement (.ibitX ar xr) :=
  fun _ _ => secondWord_bitX _ _ _

theorem ibitK (ar : Reg) (k : BitVec 4) : Statement (.ibitK ar k) :=
  fun _ _ => secondWord_bitK _ _ _

theorem ibitM (ar : Reg) (xr : Reg) (mask : Word) : Statement (.ibitM ar xr mask) :=
  fun _ h => secondWord_bitM (implemented_of_wellFormed h) _ _ _ _

theorem tsbtX (ar : Reg) (xr : Reg) : Statement (.tsbtX ar xr) :=
  fun _ _ => secondWord_bitX _ _ _

theorem tsbtK (ar : Reg) (k : BitVec 4) : Statement (.tsbtK ar k) :=
  fun _ _ => secondWord_bitK _ _ _

theorem tsbtM (ar : Reg) (xr : Reg) (mask : Word) : Statement (.tsbtM ar xr mask) :=
  fun _ h => secondWord_bitM (implemented_of_wellFormed h) _ _ _ _

theorem tbitX (ar : Reg) (xr : Reg) : Statement (.tbitX ar xr) :=
  fun _ _ => secondWord_bitX _ _ _

theorem tbitK (ar : Reg) (k : BitVec 4) : Statement (.tbitK ar k) :=
  fun _ _ => secondWord_bitK _ _ _

theorem tbitM (ar : Reg) (xr : Reg) (mask : Word) : Statement (.tbitM ar xr mask) :=
  fun _ h => secondWord_bitM (implemented_of_wellFormed h) _ _ _ _

theorem negt (ar : Reg) (xr : Reg) : Statement (.negt ar xr) :=
  fun _ _ => secondWord_move _ _ _

theorem cplm (ar : Reg) (xr : Reg) : Statement (.cplm ar xr) :=
  fun _ _ => secondWord_move _ _ _

theorem movp (ar : Reg) (xr : Reg) : Statement (.movp ar xr) :=
  fun _ _ => secondWord_move _ _ _

theorem movn (ar : Reg) (xr : Reg) : Statement (.movn ar xr) :=
  fun _ _ => secondWord_move _ _ _

theorem dsta (ar : Reg) (m : MemOp) : Statement (.dsta ar m) :=
  fun _ h => secondWord_fixed (implemented_of_wellFormed h) _ _ _

theorem dsub (ar : Reg) (m : MemOp) : Statement (.dsub ar m) :=
  fun _ h => secondWord_fixed (implemented_of_wellFormed h) _ _ _

theorem dadd (ar : Reg) (m : MemOp) : Statement (.dadd ar m) :=
  fun _ h => secondWord_fixed (implemented_of_wellFormed h) _ _ _

theorem divd (ar : Reg) (m : MemOp) : Statement (.divd ar m) :=
  fun _ h => secondWord_fixed (implemented_of_wellFormed h) _ _ _

theorem dlod (ar : Reg) (m : MemOp) : Statement (.dlod ar m) :=
  fun _ h => secondWord_fixed (implemented_of_wellFormed h) _ _ _

theorem mlta (ar : Reg) (m : MemOp) : Statement (.mlta ar m) :=
  fun _ h => secondWord_fixed (implemented_of_wellFormed h) _ _ _

theorem mult (ar : Reg) (m : MemOp) : Statement (.mult ar m) :=
  fun _ h => secondWord_fixed (implemented_of_wellFormed h) _ _ _

theorem zadd (reg1 : Reg) (reg2 : Reg) (o : DecOperands) : Statement (.zadd reg1 reg2 o) :=
  fun _ h => secondWord_decimal (implemented_of_wellFormed h) _ _ _ _

theorem addd (reg1 : Reg) (reg2 : Reg) (o : DecOperands) : Statement (.addd reg1 reg2 o) :=
  fun _ h => secondWord_decimal (implemented_of_wellFormed h) _ _ _ _

theorem subd (reg1 : Reg) (reg2 : Reg) (o : DecOperands) : Statement (.subd reg1 reg2 o) :=
  fun _ h => secondWord_decimal (implemented_of_wellFormed h) _ _ _ _

theorem cmpd (reg1 : Reg) (reg2 : Reg) (o : DecOperands) : Statement (.cmpd reg1 reg2 o) :=
  fun _ h => secondWord_decimal (implemented_of_wellFormed h) _ _ _ _

theorem sftr (reg1 : Reg) (reg2 : Reg) (o : DecOperands) : Statement (.sftr reg1 reg2 o) :=
  fun _ h => secondWord_decimal (implemented_of_wellFormed h) _ _ _ _

theorem movr (reg1 : Reg) (reg2 : Reg) (o : DecOperands) : Statement (.movr reg1 reg2 o) :=
  fun _ h => secondWord_decimal (implemented_of_wellFormed h) _ _ _ _

theorem sftl (reg1 : Reg) (reg2 : Reg) (o : DecOperands) : Statement (.sftl reg1 reg2 o) :=
  fun _ h => secondWord_decimal (implemented_of_wellFormed h) _ _ _ _

theorem movl (reg1 : Reg) (reg2 : Reg) (o : DecOperands) : Statement (.movl reg1 reg2 o) :=
  fun _ h => secondWord_decimal (implemented_of_wellFormed h) _ _ _ _

theorem comp (reg1 : Reg) (reg2 : Reg) (o : DecOperands) : Statement (.comp reg1 reg2 o) :=
  fun _ h => secondWord_decimal (implemented_of_wellFormed h) _ _ _ _

theorem trap (w : Word) : Statement (.trap w) :=
  fun _ h => secondWord_trap (implemented_of_wellFormed h)

theorem halt : Statement (.halt) :=
  fun _ _ => secondWord_halt

theorem waitE : Statement (.waitE) :=
  fun _ _ => secondWord_interrupt (by decide) _

theorem waitD : Statement (.waitD) :=
  fun _ _ => secondWord_interrupt (by decide) _

end Sys2Proof.Laws.SecondWord
end

