-- ==== Sys2Proof/Tests/Slice0.lean ====
section
/-! SUPPORT. Tests of the model, each by evaluation: ill-formed terms refused, words written out from the formats of
`30_encoding.md` (the match and the fields of the rows in opcode_table.json) decoded, single steps with the results that
`95_test_vectors.md` gives (the vector's number stands in the name), and for each statement of Obligations that has
hypotheses a state and operands that meet them. -/

namespace Sys2Proof.Tests

open Sys2Proof Sys2Proof.Machine Host

/-! ## Helpers -/

/-- A running processor of a model at `pc`, its registers and words of memory as listed; program memory 0000 to EFFF. -/
def machine (mdl : Model) (pc st : Word) (regs : List (Reg × Word)) (words : List (Word × Word)) : State :=
  let s := { State.reset with par := { State.reset.par with model := mdl }, st := st }
  let s := regs.foldl (fun s p => s.setReg p.1 p.2) (s.setPc pc)
  words.foldl (fun s p => s.putWord p.1 p.2) s

/-- Bytes put in memory. -/
def withBytes (bytes : List (Word × Byte)) (s : State) : State := bytes.foldl (fun s p => s.putByte p.1.toNat p.2) s

/-- Another processor number. -/
def withCpu (n : BitVec 2) (s : State) : State := { s with par := { s.par with cpuId := n } }

/-- Program memory of another size, in words. -/
def withMemory (words : Nat) (s : State) : State := { s with par := { s.par with memory := [⟨0, words, 0xF⟩] } }

/-- The next step answers a state in which `p` holds. -/
def after (s : State) (p : State → Bool) : Bool :=
  match step s with
  | .next t => p t
  | .fault _ | .refused _ => false

/-- Bytes of memory from an address. -/
def bytesAt (s : State) (a : Word) (n : Nat) : List Byte := (List.range n).map fun k => s.byteAt (a.toNat + k)

/-- Words that decode, on a model, to an instruction. -/
def decodesTo (rows : List (Model × Word × Word × Instr)) : Bool :=
  rows.all fun r => decode r.1 r.2.1 r.2.2.1 == r.2.2.2

/-- Program counter, branch word, status and program counter after the branch. -/
def branchesTo (rows : List (Word × Word × Word × Word)) : Bool :=
  rows.all fun r => after (machine .m1110 r.1 r.2.2.1 [] [(r.1, r.2.1)]) fun t => t.pc == r.2.2.2

/-! ## Decoding -/

theorem test_decode_class_7_a : decodesTo [
    (.m1110, 0x7013, 0x0000, .movwLoad .r1 ⟨false, none, .r3⟩),
    (.m1110, 0x71A6, 0x0421, .subwLoad .r2 ⟨true, none, .r6⟩),
    (.m1110, 0x723A, 0x0842, .addwLoad .r3 ⟨false, some 0x0842, .r2⟩),
    (.m1110, 0x73CD, 0x0C63, .andwLoad .r4 ⟨true, some 0x0C63, .r5⟩),
    (.m1110, 0x7451, 0x1084, .iorwLoad .r5 ⟨false, none, .r1⟩),
    (.m1110, 0x75E4, 0x14A5, .eorwLoad .r6 ⟨true, none, .r4⟩),
    (.m1110, 0x767F, 0x18C6, .cmpwLoad .r7 ⟨false, some 0x18C6, .r7⟩),
    (.m1110, 0x779B, 0x1CE7, .tstwLoad .r1 ⟨true, some 0x1CE7, .r3⟩)] = true := by
  decide

theorem test_decode_class_7_b : decodesTo [
    (.m1110, 0x7826, 0x2108, .movbLoad .r2 ⟨false, none, .r6⟩),
    (.m1110, 0x79B2, 0x2529, .subbLoad .r3 ⟨true, none, .r2⟩),
    (.m1110, 0x7A4D, 0x294A, .addbLoad .r4 ⟨false, some 0x294A, .r5⟩),
    (.m1110, 0x7BD9, 0x2D6B, .andbLoad .r5 ⟨true, some 0x2D6B, .r1⟩),
    (.m1110, 0x7C64, 0x318C, .iorbLoad .r6 ⟨false, none, .r4⟩),
    (.m1110, 0x7DF7, 0x35AD, .eorbLoad .r7 ⟨true, none, .r7⟩),
    (.m1110, 0x7E1B, 0x39CE, .cmpbLoad .r1 ⟨false, some 0x39CE, .r3⟩),
    (.m1110, 0x7FAE, 0x3DEF, .tstbLoad .r2 ⟨true, some 0x3DEF, .r6⟩)] = true := by
  decide

theorem test_decode_class_6_a : decodesTo [
    (.m1110, 0x6032, 0x4210, .movwLoadInc .r3 ⟨false, none, .r2⟩),
    (.m1110, 0x61C5, 0x4631, .subwLoadInc .r4 ⟨true, none, .r5⟩),
    (.m1110, 0x6259, 0x4A52, .addwLoadInc .r5 ⟨false, some 0x4A52, .r1⟩),
    (.m1110, 0x63EC, 0x4E73, .andwLoadInc .r6 ⟨true, some 0x4E73, .r4⟩),
    (.m1110, 0x6477, 0x5294, .iorwLoadInc .r7 ⟨false, none, .r7⟩),
    (.m1110, 0x6593, 0x56B5, .eorwLoadInc .r1 ⟨true, none, .r3⟩),
    (.m1110, 0x662E, 0x5AD6, .cmpwLoadInc .r2 ⟨false, some 0x5AD6, .r6⟩),
    (.m1110, 0x67BA, 0x5EF7, .tstwLoadInc .r3 ⟨true, some 0x5EF7, .r2⟩)] = true := by
  decide

theorem test_decode_class_6_b : decodesTo [
    (.m1110, 0x6845, 0x6318, .movbLoadInc .r4 ⟨false, none, .r5⟩),
    (.m1110, 0x69D1, 0x6739, .subbLoadInc .r5 ⟨true, none, .r1⟩),
    (.m1110, 0x6A6C, 0x6B5A, .addbLoadInc .r6 ⟨false, some 0x6B5A, .r4⟩),
    (.m1110, 0x6BFF, 0x6F7B, .andbLoadInc .r7 ⟨true, some 0x6F7B, .r7⟩),
    (.m1110, 0x6C13, 0x739C, .iorbLoadInc .r1 ⟨false, none, .r3⟩),
    (.m1110, 0x6DA6, 0x77BD, .eorbLoadInc .r2 ⟨true, none, .r6⟩),
    (.m1110, 0x6E3A, 0x7BDE, .cmpbLoadInc .r3 ⟨false, some 0x7BDE, .r2⟩),
    (.m1110, 0x6FCD, 0x7FFF, .tstbLoadInc .r4 ⟨true, some 0x7FFF, .r5⟩)] = true := by
  decide

theorem test_decode_class_5_a : decodesTo [
    (.m1110, 0x5051, 0x8420, .movwLoadDec .r5 ⟨false, none, .r1⟩),
    (.m1110, 0x51E4, 0x8841, .subwLoadDec .r6 ⟨true, none, .r4⟩),
    (.m1110, 0x527F, 0x8C62, .addwLoadDec .r7 ⟨false, some 0x8C62, .r7⟩),
    (.m1110, 0x539B, 0x9083, .andwLoadDec .r1 ⟨true, some 0x9083, .r3⟩),
    (.m1110, 0x5426, 0x94A4, .iorwLoadDec .r2 ⟨false, none, .r6⟩),
    (.m1110, 0x55B2, 0x98C5, .eorwLoadDec .r3 ⟨true, none, .r2⟩),
    (.m1110, 0x564D, 0x9CE6, .cmpwLoadDec .r4 ⟨false, some 0x9CE6, .r5⟩),
    (.m1110, 0x57D9, 0xA107, .tstwLoadDec .r5 ⟨true, some 0xA107, .r1⟩)] = true := by
  decide

theorem test_decode_class_5_b : decodesTo [
    (.m1110, 0x5864, 0xA528, .movbLoadDec .r6 ⟨false, none, .r4⟩),
    (.m1110, 0x59F7, 0xA949, .subbLoadDec .r7 ⟨true, none, .r7⟩),
    (.m1110, 0x5A1B, 0xAD6A, .addbLoadDec .r1 ⟨false, some 0xAD6A, .r3⟩),
    (.m1110, 0x5BAE, 0xB18B, .andbLoadDec .r2 ⟨true, some 0xB18B, .r6⟩),
    (.m1110, 0x5C32, 0xB5AC, .iorbLoadDec .r3 ⟨false, none, .r2⟩),
    (.m1110, 0x5DC5, 0xB9CD, .eorbLoadDec .r4 ⟨true, none, .r5⟩),
    (.m1110, 0x5E59, 0xBDEE, .cmpbLoadDec .r5 ⟨false, some 0xBDEE, .r1⟩),
    (.m1110, 0x5FEC, 0xC20F, .tstbLoadDec .r6 ⟨true, some 0xC20F, .r4⟩)] = true := by
  decide

theorem test_decode_class_3_a : decodesTo [
    (.m1110, 0x3077, 0xC630, .movwStore .r7 ⟨false, none, .r7⟩),
    (.m1110, 0x3193, 0xCA51, .subwStore .r1 ⟨true, none, .r3⟩),
    (.m1110, 0x322E, 0xCE72, .addwStore .r2 ⟨false, some 0xCE72, .r6⟩),
    (.m1110, 0x33BA, 0xD293, .andwStore .r3 ⟨true, some 0xD293, .r2⟩),
    (.m1110, 0x3445, 0xD6B4, .iorwStore .r4 ⟨false, none, .r5⟩),
    (.m1110, 0x35D1, 0xDAD5, .eorwStore .r5 ⟨true, none, .r1⟩),
    (.m1110, 0x366C, 0xDEF6, .cmpwStore .r6 ⟨false, some 0xDEF6, .r4⟩),
    (.m1110, 0x37FF, 0xE317, .tstwStore .r7 ⟨true, some 0xE317, .r7⟩)] = true := by
  decide

theorem test_decode_class_3_b : decodesTo [
    (.m1110, 0x3813, 0xE738, .movbStore .r1 ⟨false, none, .r3⟩),
    (.m1110, 0x39A6, 0xEB59, .subbStore .r2 ⟨true, none, .r6⟩),
    (.m1110, 0x3A3A, 0xEF7A, .addbStore .r3 ⟨false, some 0xEF7A, .r2⟩),
    (.m1110, 0x3BCD, 0xF39B, .andbStore .r4 ⟨true, some 0xF39B, .r5⟩),
    (.m1110, 0x3C51, 0xF7BC, .iorbStore .r5 ⟨false, none, .r1⟩),
    (.m1110, 0x3DE4, 0xFBDD, .eorbStore .r6 ⟨true, none, .r4⟩),
    (.m1110, 0x3E7F, 0xFFFE, .cmpbStore .r7 ⟨false, some 0xFFFE, .r7⟩),
    (.m1110, 0x3F9B, 0x041F, .tstbStore .r1 ⟨true, some 0x041F, .r3⟩)] = true := by
  decide

theorem test_decode_class_2_a : decodesTo [
    (.m1110, 0x2026, 0x0840, .movwStoreInc .r2 ⟨false, none, .r6⟩),
    (.m1110, 0x21B2, 0x0C61, .subwStoreInc .r3 ⟨true, none, .r2⟩),
    (.m1110, 0x224D, 0x1082, .addwStoreInc .r4 ⟨false, some 0x1082, .r5⟩),
    (.m1110, 0x23D9, 0x14A3, .andwStoreInc .r5 ⟨true, some 0x14A3, .r1⟩),
    (.m1110, 0x2464, 0x18C4, .iorwStoreInc .r6 ⟨false, none, .r4⟩),
    (.m1110, 0x25F7, 0x1CE5, .eorwStoreInc .r7 ⟨true, none, .r7⟩),
    (.m1110, 0x261B, 0x2106, .cmpwStoreInc .r1 ⟨false, some 0x2106, .r3⟩),
    (.m1110, 0x27AE, 0x2527, .tstwStoreInc .r2 ⟨true, some 0x2527, .r6⟩)] = true := by
  decide

theorem test_decode_class_2_b : decodesTo [
    (.m1110, 0x2832, 0x2948, .movbStoreInc .r3 ⟨false, none, .r2⟩),
    (.m1110, 0x29C5, 0x2D69, .subbStoreInc .r4 ⟨true, none, .r5⟩),
    (.m1110, 0x2A59, 0x318A, .addbStoreInc .r5 ⟨false, some 0x318A, .r1⟩),
    (.m1110, 0x2BEC, 0x35AB, .andbStoreInc .r6 ⟨true, some 0x35AB, .r4⟩),
    (.m1110, 0x2C77, 0x39CC, .iorbStoreInc .r7 ⟨false, none, .r7⟩),
    (.m1110, 0x2D93, 0x3DED, .eorbStoreInc .r1 ⟨true, none, .r3⟩),
    (.m1110, 0x2E2E, 0x420E, .cmpbStoreInc .r2 ⟨false, some 0x420E, .r6⟩),
    (.m1110, 0x2FBA, 0x462F, .tstbStoreInc .r3 ⟨true, some 0x462F, .r2⟩)] = true := by
  decide

theorem test_decode_class_1_a : decodesTo [
    (.m1110, 0x1045, 0x4A50, .movwStoreDec .r4 ⟨false, none, .r5⟩),
    (.m1110, 0x11D1, 0x4E71, .subwStoreDec .r5 ⟨true, none, .r1⟩),
    (.m1110, 0x126C, 0x5292, .addwStoreDec .r6 ⟨false, some 0x5292, .r4⟩),
    (.m1110, 0x13FF, 0x56B3, .andwStoreDec .r7 ⟨true, some 0x56B3, .r7⟩),
    (.m1110, 0x1413, 0x5AD4, .iorwStoreDec .r1 ⟨false, none, .r3⟩),
    (.m1110, 0x15A6, 0x5EF5, .eorwStoreDec .r2 ⟨true, none, .r6⟩),
    (.m1110, 0x163A, 0x6316, .cmpwStoreDec .r3 ⟨false, some 0x6316, .r2⟩),
    (.m1110, 0x17CD, 0x6737, .tstwStoreDec .r4 ⟨true, some 0x6737, .r5⟩)] = true := by
  decide

theorem test_decode_class_1_b : decodesTo [
    (.m1110, 0x1851, 0x6B58, .movbStoreDec .r5 ⟨false, none, .r1⟩),
    (.m1110, 0x19E4, 0x6F79, .subbStoreDec .r6 ⟨true, none, .r4⟩),
    (.m1110, 0x1A7F, 0x739A, .addbStoreDec .r7 ⟨false, some 0x739A, .r7⟩),
    (.m1110, 0x1B9B, 0x77BB, .andbStoreDec .r1 ⟨true, some 0x77BB, .r3⟩),
    (.m1110, 0x1C26, 0x7BDC, .iorbStoreDec .r2 ⟨false, none, .r6⟩),
    (.m1110, 0x1DB2, 0x7FFD, .eorbStoreDec .r3 ⟨true, none, .r2⟩),
    (.m1110, 0x1E4D, 0x841E, .cmpbStoreDec .r4 ⟨false, some 0x841E, .r5⟩),
    (.m1110, 0x1FD9, 0x883F, .tstbStoreDec .r5 ⟨true, some 0x883F, .r1⟩)] = true := by
  decide

theorem test_decode_class_4_jumps : decodesTo [
    (.m1110, 0x408C, 0x1234, .jump ⟨true, some 0x1234, .r4⟩),
    (.m1110, 0x4077, 0x0000, .jsbr .r7 ⟨false, none, .r7⟩)] = true := by
  decide

theorem test_decode_class_4_register : decodesTo [
    (.m1110, 0x4813, 0x0000, .movwReg .r1 .r3),
    (.m1110, 0x4926, 0x0000, .subwReg .r2 .r6),
    (.m1110, 0x4A32, 0x0000, .addwReg .r3 .r2),
    (.m1110, 0x4B45, 0x0000, .andwReg .r4 .r5),
    (.m1110, 0x4C51, 0x0000, .iorwReg .r5 .r1),
    (.m1110, 0x4D64, 0x0000, .eorwReg .r6 .r4),
    (.m1110, 0x4E77, 0x0000, .cmpwReg .r7 .r7),
    (.m1110, 0x4F13, 0x0000, .tstwReg .r1 .r3)] = true := by
  decide

theorem test_decode_class_4_literal : decodesTo [
    (.m1110, 0x482E, 0x0206, .movwLit .r2 .r6 0x0206),
    (.m1110, 0x493A, 0x155D, .subwLit .r3 .r2 0x155D),
    (.m1110, 0x4A4D, 0x28B4, .addwLit .r4 .r5 0x28B4),
    (.m1110, 0x4B59, 0x3C0B, .andwLit .r5 .r1 0x3C0B),
    (.m1110, 0x4C6C, 0x4F62, .iorwLit .r6 .r4 0x4F62),
    (.m1110, 0x4D7F, 0x62B9, .eorwLit .r7 .r7 0x62B9),
    (.m1110, 0x4E1B, 0x7610, .cmpwLit .r1 .r3 0x7610),
    (.m1110, 0x4F2E, 0x8967, .tstwLit .r2 .r6 0x8967)] = true := by
  decide

theorem test_decode_class_4_immediate : decodesTo [
    (.m1110, 0x48BD, 0x0000, .movwImm .r3 13),
    (.m1110, 0x49C2, 0x0000, .subwImm .r4 2),
    (.m1110, 0x4AD7, 0x0000, .addwImm .r5 7),
    (.m1110, 0x4BEC, 0x0000, .andwImm .r6 12),
    (.m1110, 0x4CF1, 0x0000, .iorwImm .r7 1),
    (.m1110, 0x4D96, 0x0000, .eorwImm .r1 6),
    (.m1110, 0x4EAB, 0x0000, .cmpwImm .r2 11),
    (.m1110, 0x4FB0, 0x0000, .tstwImm .r3 0)] = true := by
  decide

theorem test_decode_class_8_a : decodesTo [
    (.m1110, 0x80AD, 0x0000, .nopr 0xAD),
    (.m1110, 0x811C, 0x0000, .beqf 0x1C),
    (.m1110, 0x8266, 0x0000, .bgtf 0x66),
    (.m1110, 0x83B0, 0x0000, .bovf 0xB0),
    (.m1110, 0x84FA, 0x0000, .bcyf 0xFA),
    (.m1110, 0x8544, 0x0000, .bf1f 0x44),
    (.m1110, 0x868E, 0x0000, .bf2f 0x8E),
    (.m1110, 0x87D8, 0x0000, .bf3f 0xD8)] = true := by
  decide

theorem test_decode_class_8_b : decodesTo [
    (.m1110, 0x8822, 0x0000, .blpf 0x22),
    (.m1110, 0x896C, 0x0000, .bodf 0x6C),
    (.m1110, 0x8AB6, 0x0000, .bzef 0xB6),
    (.m1110, 0x8B00, 0x0000, .bngf 0x00),
    (.m1110, 0x8C4A, 0x0000, .bltf 0x4A)] = true := by
  decide

theorem test_decode_class_9_a : decodesTo [
    (.m1110, 0x90D2, 0x0000, .brun 0xD2),
    (.m1110, 0x91F7, 0x0000, .beqt 0xF7),
    (.m1110, 0x9241, 0x0000, .bgtt 0x41),
    (.m1110, 0x938B, 0x0000, .bovt 0x8B),
    (.m1110, 0x94D5, 0x0000, .bcyt 0xD5),
    (.m1110, 0x951F, 0x0000, .bf1t 0x1F),
    (.m1110, 0x9669, 0x0000, .bf2t 0x69),
    (.m1110, 0x97B3, 0x0000, .bf3t 0xB3)] = true := by
  decide

theorem test_decode_class_9_b : decodesTo [
    (.m1110, 0x98FD, 0x0000, .blpt 0xFD),
    (.m1110, 0x9947, 0x0000, .bodt 0x47),
    (.m1110, 0x9A91, 0x0000, .bzet 0x91),
    (.m1110, 0x9BDB, 0x0000, .bngt 0xDB),
    (.m1110, 0x9C25, 0x0000, .bltt 0x25)] = true := by
  decide

theorem test_decode_class_a_count_in_a_register_a : decodesTo [
    (.m1110, 0xA013, 0x0000, .slaoX .r1 .r3),
    (.m1110, 0xA132, 0x0000, .slllX .r3 .r2),
    (.m1110, 0xA251, 0x0000, .slloX .r5 .r1),
    (.m1110, 0xA377, 0x0000, .sllcX .r7 .r7),
    (.m1110, 0xA426, 0x0000, .sraoX .r2 .r6),
    (.m1110, 0xA545, 0x0000, .srllX .r4 .r5),
    (.m1110, 0xA664, 0x0000, .srloX .r6 .r4),
    (.m1110, 0xA713, 0x0000, .srlcX .r1 .r3)] = true := by
  decide

theorem test_decode_class_a_count_in_a_register_b : decodesTo [
    (.m1112A, 0xA845, 0x0000, .dlaoX .r4 .r5),
    (.m1112A, 0xA924, 0x0000, .dlllX .r2 .r4),
    (.m1112A, 0xAA63, 0x0000, .dlloX .r6 .r3),
    (.m1112A, 0xAB42, 0x0000, .dllcX .r4 .r2),
    (.m1112A, 0xAC21, 0x0000, .draoX .r2 .r1),
    (.m1112A, 0xAD67, 0x0000, .drllX .r6 .r7),
    (.m1112A, 0xAE46, 0x0000, .drloX .r4 .r6),
    (.m1112A, 0xAF25, 0x0000, .drlcX .r2 .r5)] = true := by
  decide

theorem test_decode_class_a_count_k : decodesTo [
    (.m1110, 0xA0AA, 0x0000, .slaoK .r2 10),
    (.m1110, 0xA1C4, 0x0000, .slllK .r4 4),
    (.m1110, 0xA2EE, 0x0000, .slloK .r6 14),
    (.m1110, 0xA398, 0x0000, .sllcK .r1 8),
    (.m1110, 0xA4B2, 0x0000, .sraoK .r3 2),
    (.m1110, 0xA5DC, 0x0000, .srllK .r5 12),
    (.m1110, 0xA6F6, 0x0000, .srloK .r7 6),
    (.m1110, 0xA7A0, 0x0000, .srlcK .r2 0)] = true := by
  decide

theorem test_decode_class_a_normalize : decodesTo [
    (.m1112A, 0xA03A, 0x0000, .slan .r3 .r2),
    (.m1112A, 0xA24D, 0x0000, .slln .r4 .r5),
    (.m1112A, 0xA459, 0x0000, .sran .r5 .r1),
    (.m1112A, 0xA66C, 0x0000, .srln .r6 .r4),
    (.m1112A, 0xA87F, 0x0000, .dlan .r7 .r7),
    (.m1112A, 0xAA1B, 0x0000, .dlln .r1 .r3),
    (.m1112A, 0xAC2E, 0x0000, .dran .r2 .r6),
    (.m1112A, 0xAE3A, 0x0000, .drln .r3 .r2)] = true := by
  decide

theorem test_decode_class_a_double_count_k : decodesTo [
    (.m1112A, 0xA8E6, 0x0000, .dlaoK 3 6),
    (.m1112A, 0xA9D4, 0x0000, .dlllK 2 20),
    (.m1112A, 0xAAA2, 0x0000, .dlloK 1 2),
    (.m1112A, 0xABF0, 0x0000, .dllcK 3 16),
    (.m1112A, 0xACDE, 0x0000, .draoK 2 30),
    (.m1112A, 0xADAC, 0x0000, .drllK 1 12),
    (.m1112A, 0xAEFA, 0x0000, .drloK 3 26),
    (.m1112A, 0xAFC8, 0x0000, .drlcK 2 8)] = true := by
  decide

theorem test_decode_class_0_a : decodesTo [
    (.m1110, 0x0015, 0x0000, .halt),
    (.m1110, 0x0255, 0x0000, .rsts 0x55),
    (.m1110, 0x02D5, 0x0000, .sets 0x55),
    (.m1110, 0x080D, 0x0000, .enbl 13),
    (.m1110, 0x0840, 0x0000, .waitE),
    (.m1110, 0x0847, 0x0000, .enbw 7),
    (.m1110, 0x088B, 0x0000, .dsbl 11),
    (.m1110, 0x08C0, 0x0000, .waitD)] = true := by
  decide

theorem test_decode_class_0_b : decodesTo [
    (.m1110, 0x08C5, 0x0000, .dsbw 5),
    (.m1110B, 0x06CD, 0x2468, .fclw .r4 ⟨true, some 0x2468, .r5⟩),
    (.m1110B, 0x0ED9, 0x2468, .fclb .r5 ⟨true, some 0x2468, .r1⟩),
    (.m1112B, 0x0812, 0x4000, .skey 2),
    (.m1112B, 0x081A, 0x4000, .jkey 2 0x4000),
    (.m1112A, 0x0823, 0x0000, .lcpu .r3),
    (.m1112A, 0x0836, 0x0000, .lkey .r6)] = true := by
  decide

theorem test_decode_class_0_d_field_a : decodesTo [
    (.m1110, 0x0162, 0x0000, .stsm .absolute 0x62),
    (.m1110, 0x0987, 0x0000, .stsm .relative 0x87),
    (.m1110, 0x03AC, 0x0000, .regm .absolute 0xAC),
    (.m1110, 0x0BD1, 0x0000, .regm .relative 0xD1),
    (.m1110, 0x04F6, 0x0000, .retn .absolute 0xF6),
    (.m1110, 0x0C1B, 0x0000, .retn .relative 0x1B),
    (.m1110, 0x0540, 0x0000, .msts .absolute 0x40),
    (.m1110, 0x0D65, 0x0000, .msts .relative 0x65)] = true := by
  decide

theorem test_decode_class_0_d_field_b : decodesTo [
    (.m1110, 0x078A, 0x0000, .mreg .absolute 0x8A),
    (.m1110, 0x0FAF, 0x0000, .mreg .relative 0xAF)] = true := by
  decide

theorem test_decode_class_4_bits_a : decodesTo [
    (.m1112A, 0x4132, 0x0000, .rbitX .r3 .r2),
    (.m1112A, 0x41CF, 0x0000, .rbitK .r4 15),
    (.m1112A, 0x4159, 0xF0A5, .rbitM .r5 .r1 0xF0A5),
    (.m1112A, 0x4264, 0x0000, .sbitX .r6 .r4),
    (.m1112A, 0x42FE, 0x0000, .sbitK .r7 14),
    (.m1112A, 0x421B, 0xF0A5, .sbitM .r1 .r3 0xF0A5),
    (.m1112A, 0x4326, 0x0000, .cbitX .r2 .r6),
    (.m1112A, 0x43BD, 0x0000, .cbitK .r3 13)] = true := by
  decide

theorem test_decode_class_4_bits_b : decodesTo [
    (.m1112A, 0x434D, 0xF0A5, .cbitM .r4 .r5 0xF0A5),
    (.m1112A, 0x4451, 0x0000, .ibitX .r5 .r1),
    (.m1112A, 0x44EC, 0x0000, .ibitK .r6 12),
    (.m1112A, 0x447F, 0xF0A5, .ibitM .r7 .r7 0xF0A5),
    (.m1112A, 0x4513, 0x0000, .tsbtX .r1 .r3),
    (.m1112A, 0x45AB, 0x0000, .tsbtK .r2 11),
    (.m1112A, 0x453A, 0xF0A5, .tsbtM .r3 .r2 0xF0A5),
    (.m1112A, 0x4645, 0x0000, .tbitX .r4 .r5)] = true := by
  decide

theorem test_decode_class_4_bits_c : decodesTo [
    (.m1112A, 0x46DA, 0x0000, .tbitK .r5 10),
    (.m1112A, 0x466C, 0xF0A5, .tbitM .r6 .r4 0xF0A5)] = true := by
  decide

theorem test_decode_class_4_moves : decodesTo [
    (.m1112A, 0x4777, 0x0000, .negt .r7 .r7),
    (.m1112A, 0x471B, 0x0000, .cplm .r1 .r3),
    (.m1112A, 0x47A6, 0x0000, .movp .r2 .r6),
    (.m1112A, 0x47BA, 0x0000, .movn .r3 .r2)] = true := by
  decide

theorem test_decode_class_b : decodesTo [
    (.m1112A, 0xB0C5, 0x1350, .dsta .r4 ⟨true, none, .r5⟩),
    (.m1112A, 0xB169, 0x1350, .dsub .r6 ⟨false, some 0x1350, .r1⟩),
    (.m1112A, 0xB2AC, 0x1350, .dadd .r2 ⟨true, some 0x1350, .r4⟩),
    (.m1112A, 0xB447, 0x1350, .divd .r4 ⟨false, none, .r7⟩),
    (.m1112A, 0xB5E3, 0x1350, .dlod .r6 ⟨true, none, .r3⟩),
    (.m1112A, 0xB34E, 0x1350, .mlta .r4 ⟨false, some 0x1350, .r6⟩),
    (.m1112A, 0xB3DA, 0x1350, .mult .r5 ⟨true, some 0x1350, .r2⟩)] = true := by
  decide

theorem test_decode_class_c_a : decodesTo [
    (.m1111A, 0xC245, 0x1A34, .zadd .r4 .r5 ⟨1, 10, false, .r3, false, .r4⟩),
    (.m1111A, 0xC351, 0x1B34, .addd .r5 .r1 ⟨1, 11, false, .r3, false, .r4⟩),
    (.m1111A, 0xC464, 0x1C34, .subd .r6 .r4 ⟨1, 12, false, .r3, false, .r4⟩),
    (.m1111A, 0xC577, 0x1D34, .cmpd .r7 .r7 ⟨1, 13, false, .r3, false, .r4⟩),
    (.m1111B, 0xC810, 0x2534, .sftr .r1 .r0 ⟨2, 5, false, .r3, false, .r4⟩),
    (.m1111A, 0xC926, 0x1F34, .movr .r2 .r6 ⟨1, 15, false, .r3, false, .r4⟩),
    (.m1111B, 0xCA30, 0x2534, .sftl .r3 .r0 ⟨2, 5, false, .r3, false, .r4⟩),
    (.m1111A, 0xCB45, 0x1134, .movl .r4 .r5 ⟨1, 1, false, .r3, false, .r4⟩)] = true := by
  decide

theorem test_decode_class_c_b : decodesTo [
    (.m1111A, 0xCC51, 0x1234, .comp .r5 .r1 ⟨1, 2, false, .r3, false, .r4⟩)] = true := by
  decide

theorem test_decode_traps_a : decodesTo [
    (.m1110, 0x8D12, 0, .trap 0x8D12), (.m1110, 0x8E34, 0, .trap 0x8E34), (.m1110, 0x8F56, 0, .trap 0x8F56),
    (.m1110, 0x9D78, 0, .trap 0x9D78), (.m1110, 0x9E9A, 0, .trap 0x9E9A), (.m1110, 0x9FBC, 0, .trap 0x9FBC),
    (.m1111A, 0xC012, 0, .trap 0xC012), (.m1111A, 0xC134, 0, .trap 0xC134), (.m1111A, 0xC612, 0, .trap 0xC612)] = true := by
  decide

theorem test_decode_traps_b : decodesTo [
    (.m1111A, 0xC756, 0, .trap 0xC756), (.m1111A, 0xCD12, 0, .trap 0xCD12), (.m1111A, 0xCE34, 0, .trap 0xCE34),
    (.m1111A, 0xCF56, 0, .trap 0xCF56), (.m1110, 0xB328, 0, .trap 0xB328), (.m1111B, 0xB328, 0, .trap 0xB328),
    (.m1110, 0xC312, 0, .trap 0xC312), (.m1112B, 0xC312, 0, .trap 0xC312), (.m1112B, 0xD123, 0, .trap 0xD123)] = true := by
  decide

theorem test_decode_traps_c : decodesTo [
    (.m1111B, 0xE456, 0, .trap 0xE456), (.m1110B, 0xF789, 0, .trap 0xF789), (.m1110, 0x0618, 0, .trap 0x0618),
    (.m1110A, 0x0A00, 0, .trap 0x0A00), (.m1112A, 0x0A00, 0, .trap 0x0A00), (.m1110B, 0x4193, 0, .trap 0x4193),
    (.m1110, 0xA01A, 0, .trap 0xA01A), (.m1110, 0xA829, 0, .trap 0xA829)] = true := by
  decide

/-! ## Branches -/

theorem test_branches_a : branchesTo [
    (0x0100, 0x9020, 0x0800, 0x0140), (0x0140, 0x90E0, 0x0800, 0x0100), (0x0100, 0x90FF, 0x0800, 0x00FE),
    (0x0100, 0x8000, 0x0800, 0x0102), (0x0100, 0x9000, 0x0800, 0x0100), (0x012A, 0x8102, 0x0801, 0x012C),
    (0x012A, 0x8102, 0x0800, 0x012E), (0x0104, 0x8AFF, 0x0800, 0x0102), (0x0104, 0x8AFF, 0x0A00, 0x0106),
    (0x0100, 0x9C05, 0x0800, 0x010A), (0x0100, 0x9C05, 0x0803, 0x0102), (0x0100, 0x9C05, 0x0801, 0x0102)] = true := by
  decide

theorem test_branches_b : branchesTo [
    (0x0100, 0x9C05, 0x0802, 0x0102), (0x0100, 0x8C05, 0x0802, 0x010A), (0x0100, 0x8C05, 0x0800, 0x0102),
    (0x0100, 0x9180, 0x0801, 0x0000), (0x0100, 0x917F, 0x0801, 0x01FE), (0x0000, 0x90FF, 0x0800, 0xFFFE),
    (0x0100, 0x9310, 0x0804, 0x0120), (0x0100, 0x8310, 0x0804, 0x0102), (0x0100, 0x9410, 0x0808, 0x0120),
    (0x0100, 0x8410, 0x0808, 0x0102), (0x0100, 0x9510, 0x0810, 0x0120), (0x0100, 0x8510, 0x0810, 0x0102)] = true := by
  decide

theorem test_branches_c : branchesTo [
    (0x0100, 0x9610, 0x0820, 0x0120), (0x0100, 0x8610, 0x0820, 0x0102), (0x0100, 0x9710, 0x0840, 0x0120),
    (0x0100, 0x8710, 0x0840, 0x0102), (0x0100, 0x9810, 0x0880, 0x0120), (0x0100, 0x8810, 0x0880, 0x0102),
    (0x0100, 0x9910, 0x0900, 0x0120), (0x0100, 0x8910, 0x0900, 0x0102), (0x0100, 0x9B10, 0x0C00, 0x0120),
    (0x0100, 0x8B10, 0x0C00, 0x0102), (0x0100, 0x9A10, 0x0A00, 0x0120), (0x0100, 0x8A10, 0x0A00, 0x0102)] = true := by
  decide

theorem test_branches_d : branchesTo [
    (0x0100, 0x9110, 0x0801, 0x0120), (0x0100, 0x8110, 0x0801, 0x0102), (0x0100, 0x9210, 0x0802, 0x0120),
    (0x0100, 0x8210, 0x0802, 0x0102)] = true := by
  decide

/-! ## Single steps -/

theorem test_step_S1_addwLoad : after (machine .m1110 0x0100 0x0800 []
    [(0x0100, 0x7218), (0x0102, 0x0040), (0x0040, 0x0005)]) (fun t =>
    t.reg .r1 == 0x0005 && t.st == 0x0900 && t.pc == 0x0104) = true := by decide

theorem test_step_S2_addwStore : after (machine .m1110 0x0100 0x0800 [(.r1, 0x0003)]
    [(0x0100, 0x3218), (0x0102, 0x0040), (0x0040, 0x0005)]) (fun t =>
    t.wordAt 0x0040 == 0x0008 && t.reg .r1 == 0x0003 && t.st == 0x0800) = true := by decide

theorem test_step_S3_subbLoad : after (machine .m1110 0x0100 0x0800 [(.r1, 0x0100)]
    [(0x0100, 0x7918), (0x0102, 0x0041), (0x0040, 0xAA05)]) (fun t =>
    t.reg .r1 == 0x00FB && t.st == 0x0908) = true := by decide

theorem test_step_S4_subbStore : after (machine .m1110 0x0100 0x0800 [(.r1, 0x0002)]
    [(0x0100, 0x3918), (0x0102, 0x0041), (0x0040, 0xAA05)]) (fun t =>
    t.wordAt 0x0040 == 0xAA03 && t.st == 0x0908) = true := by decide

theorem test_step_S5_andwLoad : after (machine .m1110 0x0100 0x0800 [(.r2, 0x0040), (.r3, 0x00FF)]
    [(0x0100, 0x7332), (0x0040, 0x0F0F)]) (fun t =>
    t.reg .r3 == 0x000F && t.st == 0x0900 && t.pc == 0x0102) = true := by decide

theorem test_step_S6_andwStore : after (machine .m1110 0x0100 0x0800 [(.r2, 0x0040), (.r3, 0x00FF)]
    [(0x0100, 0x3332), (0x0040, 0x0F0F)]) (fun t =>
    t.wordAt 0x0040 == 0x000F && t.reg .r3 == 0x00FF && t.st == 0x0900) = true := by decide

theorem test_step_S7_eorwLoad : after (machine .m1110 0x0100 0x0800 [(.r4, 0x0022)]
    [(0x0100, 0x755C), (0x0102, 0x0040), (0x0062, 0x1111)]) (fun t =>
    t.reg .r5 == 0x1111 && t.st == 0x0900) = true := by decide

theorem test_step_S8_eorwStore : after (machine .m1110 0x0100 0x0800 [(.r4, 0x0022), (.r5, 0x00FF)]
    [(0x0100, 0x355C), (0x0102, 0x0040), (0x0062, 0x0F0F)]) (fun t =>
    t.wordAt 0x0062 == 0x0FF0 && t.st == 0x0800) = true := by decide

theorem test_step_S9_iorwLoad : after (machine .m1110 0x0100 0x0800 []
    [(0x0100, 0x74E8), (0x0102, 0x0040), (0x0040, 0x0068), (0x0068, 0x2222)]) (fun t =>
    t.reg .r6 == 0x2222 && t.st == 0x0800) = true := by decide

theorem test_step_S10_iorwStore : after (machine .m1110 0x0100 0x0800 [(.r6, 0x00F0)]
    [(0x0100, 0x34E8), (0x0102, 0x0040), (0x0040, 0x0068), (0x0068, 0x0F00)]) (fun t =>
    t.wordAt 0x0068 == 0x0FF0 && t.st == 0x0800) = true := by decide

theorem test_step_S11_movwLoad : after (machine .m1110 0x0100 0x0800 [(.r3, 0x00C0)]
    [(0x0100, 0x70F3), (0x00C0, 0x0080), (0x0080, 0x3333)]) (fun t =>
    t.reg .r7 == 0x3333 && t.st == 0x0900 && t.pc == 0x0102) = true := by decide

theorem test_step_S12_movwStore : after (machine .m1110 0x0100 0x0800 [(.r3, 0x00C0), (.r7, 0x0042)]
    [(0x0100, 0x30F3), (0x00C0, 0x0080)]) (fun t =>
    t.wordAt 0x0080 == 0x0042 && t.st == 0x0800) = true := by decide

theorem test_step_S13_cmpwLoad : after (machine .m1110 0x0100 0x0800 [(.r2, 0x0060), (.r4, 0x4444)]
    [(0x0100, 0x76CA), (0x0102, 0x0040), (0x00A0, 0x00E0), (0x00E0, 0x4444)]) (fun t =>
    t.st == 0x0801) = true := by decide

theorem test_step_S14_cmpwStore : after (machine .m1110 0x0100 0x0800 [(.r2, 0x0060), (.r4, 0x4444)]
    [(0x0100, 0x36CA), (0x0102, 0x0040), (0x00A0, 0x00E0), (0x00E0, 0x4445)]) (fun t =>
    t.st == 0x0800 && t.wordAt 0x00E0 == 0x4445) = true := by decide

theorem test_step_S15_andwLoadInc : after (machine .m1110 0x0100 0x0800 [(.r2, 0x0040), (.r3, 0xFFFF)]
    [(0x0100, 0x6332), (0x0040, 0x0F0F)]) (fun t =>
    t.reg .r3 == 0x0F0F && t.reg .r2 == 0x0042 && t.st == 0x0900) = true := by decide

theorem test_step_S16_andwStoreInc : after (machine .m1110 0x0100 0x0800 [(.r2, 0x0040), (.r3, 0x00FF)]
    [(0x0100, 0x2332), (0x0040, 0x0F0F)]) (fun t =>
    t.wordAt 0x0040 == 0x000F && t.reg .r2 == 0x0042) = true := by decide

theorem test_step_S17_eorwLoadDec : after (machine .m1110 0x0100 0x0800 [(.r4, 0x0022)]
    [(0x0100, 0x555C), (0x0102, 0x0040), (0x0060, 0x1111)]) (fun t =>
    t.reg .r4 == 0x0020 && t.reg .r5 == 0x1111 && t.st == 0x0900) = true := by decide

theorem test_step_S18_eorwStoreDec : after (machine .m1110 0x0100 0x0800 [(.r4, 0x0022), (.r5, 0x00FF)]
    [(0x0100, 0x155C), (0x0102, 0x0040), (0x0060, 0x0F0F)]) (fun t =>
    t.reg .r4 == 0x0020 && t.wordAt 0x0060 == 0x0FF0) = true := by decide

theorem test_step_S19_addbStoreInc : after (machine .m1110 0x0100 0x0800 [(.r1, 0x0001), (.r2, 0x0020)]
    [(0x0100, 0x2A9A), (0x0102, 0x0040), (0x0060, 0x0081), (0x0080, 0x1234)]) (fun t =>
    t.wordAt 0x0080 == 0x1235 && t.reg .r2 == 0x0021 && t.st == 0x0900) = true := by decide

theorem test_step_S21_jump : after (machine .m1110 0x0100 0x0800 []
    [(0x0100, 0x4008), (0x0102, 0x0040)]) (fun t =>
    t.pc == 0x0040 && t.st == 0x0800) = true := by decide

theorem test_step_S22_jump : after (machine .m1110 0x0100 0x0800 []
    [(0x0100, 0x4088), (0x0102, 0x0040), (0x0040, 0x0060)]) (fun t =>
    t.pc == 0x0060) = true := by decide

theorem test_step_S25_jsbr : after (machine .m1110 0x0400 0x0800 []
    [(0x0400, 0x4078), (0x0402, 0x0040)]) (fun t =>
    t.reg .r7 == 0x0404 && t.pc == 0x0040) = true := by decide

theorem test_step_S32_subwReg : after (machine .m1110 0x0100 0x0800 [(.r1, 0x0003), (.r2, 0x000A)]
    [(0x0100, 0x4921)]) (fun t =>
    t.reg .r2 == 0x0007 && t.st == 0x0908) = true := by decide

theorem test_step_S33a_cmpwImm : after (machine .m1110 0x0100 0x0800 [(.r5, 0x0009)]
    [(0x0100, 0x4ED7)]) (fun t =>
    t.st == 0x0800) = true := by decide

theorem test_step_S33b_cmpwImm : after (machine .m1110 0x0100 0x0800 [(.r5, 0x0007)]
    [(0x0100, 0x4ED7)]) (fun t =>
    t.st == 0x0801) = true := by decide

theorem test_step_S34_addwLit : after (machine .m1110 0x0100 0x0800 [(.r3, 0x0001)]
    [(0x0100, 0x4A38), (0x0102, 0x1234)]) (fun t =>
    t.reg .r3 == 0x1235 && t.st == 0x0900 && t.pc == 0x0104) = true := by decide

theorem test_step_S35_subwLit : after (machine .m1110 0x0100 0x0800 [(.r2, 0x0080), (.r6, 0x0020)]
    [(0x0100, 0x492E), (0x0102, 0x0040)]) (fun t =>
    t.reg .r2 == 0x0020 && t.st == 0x0808) = true := by decide

theorem test_step_S36_slllK : after (machine .m1110 0x0100 0x0808 [(.r2, 0x0001)]
    [(0x0100, 0xA1A6)]) (fun t =>
    t.reg .r2 == 0x0060 && t.st == 0x0800) = true := by decide

theorem test_step_S37_slloX : after (machine .m1110 0x0100 0x0800 [(.r2, 0x00FF), (.r3, 0xFFF4)]
    [(0x0100, 0xA223)]) (fun t =>
    t.reg .r2 == 0x0FF0 && t.reg .r3 == 0xFFF4 && t.st == 0x0800) = true := by decide

theorem test_step_S38_halt : after (machine .m1110 0x0100 0x0800 []
    [(0x0100, 0x0000)]) (fun t =>
    t.run == .halted && t.pc == 0x0102) = true := by decide

theorem test_step_S39_enbl : after (machine .m1110 0x0100 0xF800 []
    [(0x0100, 0x0805)]) (fun t =>
    t.st == 0xA800) = true := by decide

theorem test_step_S40_stsm : after (machine .m1110 0x1002 0xF800 []
    [(0x1002, 0x09FF)]) (fun t =>
    t.wordAt 0x1000 == 0xF800 && t.pc == 0x1004) = true := by decide

theorem test_step_S41_msts : after (machine .m1110 0x0100 0x0800 []
    [(0x0100, 0x0501), (0x0002, 0xF80F)]) (fun t =>
    t.st == 0xF80F && t.pc == 0x0102) = true := by decide

theorem test_step_S60_subd : after (withBytes [(0x0300, 0x42), (0x0301, 0x6D), (0x0340, 0x07), (0x0341, 0x99),
      (0x0342, 0x74), (0x0343, 0x3C)]
    (machine .m1111A 0x0100 0x0800 [(.r1, 0x0300), (.r2, 0x0340), (.r5, 0x5555), (.r6, 0x6666), (.r7, 0x7777)]
    [(0x0100, 0xC412), (0x0102, 0x1300)])) (fun t =>
    bytesAt t 0x0340 4 == [0x08, 0x00, 0x16, 0x9C] && t.st == 0x0800 && t.pc == 0x0104 && t.reg .r1 == 0x0300
      && t.reg .r2 == 0x0340 && t.reg .r5 == 0x5555 && t.reg .r6 == 0x6666 && t.reg .r7 == 0x7777
      && t.wordAt 0x0020 == 0x5555 && t.wordAt 0x0022 == 0x6666 && t.wordAt 0x0024 == 0x7777) = true := by decide

theorem test_step_S61_addd : after (withBytes [(0x0300, 0x18), (0x0301, 0x2C), (0x0340, 0x78), (0x0341, 0x29),
      (0x0342, 0x4D)]
    (machine .m1111A 0x0100 0x0800 [(.r1, 0x0300), (.r2, 0x0340), (.r5, 0x5555), (.r6, 0x6666), (.r7, 0x7777)]
    [(0x0100, 0xC312), (0x0102, 0x1200)])) (fun t =>
    bytesAt t 0x0340 3 == [0x78, 0x11, 0x2D] && t.st == 0x0800 && t.pc == 0x0104 && t.reg .r1 == 0x0300
      && t.reg .r2 == 0x0340 && t.reg .r5 == 0x5555 && t.reg .r6 == 0x6666 && t.reg .r7 == 0x7777
      && t.wordAt 0x0020 == 0x5555 && t.wordAt 0x0022 == 0x6666 && t.wordAt 0x0024 == 0x7777) = true := by decide

theorem test_step_S64_addd : after (withBytes [(0x0300, 0x00), (0x0301, 0x73), (0x0302, 0x8D), (0x0340, 0x00),
      (0x0341, 0x00), (0x0342, 0x00), (0x0343, 0x72), (0x0344, 0x9C)]
    (machine .m1111A 0x0100 0x0800 [(.r1, 0x0300), (.r2, 0x0340), (.r5, 0x5555), (.r6, 0x6666), (.r7, 0x7777)]
    [(0x0100, 0xC312), (0x0102, 0x2400)])) (fun t =>
    bytesAt t 0x0340 5 == [0x00, 0x00, 0x00, 0x00, 0x9D] && t.st == 0x0800 && t.pc == 0x0104
      && t.reg .r1 == 0x0300 && t.reg .r2 == 0x0340 && t.reg .r5 == 0x5555 && t.reg .r6 == 0x6666
      && t.reg .r7 == 0x7777 && t.wordAt 0x0020 == 0x5555 && t.wordAt 0x0022 == 0x6666
      && t.wordAt 0x0024 == 0x7777) = true := by decide

theorem test_step_G1_movwLoad : after (machine .m1110 0x0100 0x0800 []
    [(0x0100, 0x7018), (0x0102, 0x0200), (0x0200, 0x8001)]) (fun t =>
    t.reg .r1 == 0x8001 && t.st == 0x0D00 && t.pc == 0x0104) = true := by decide

theorem test_step_G2_subwImm : after (machine .m1110 0x0100 0x0800 [(.r3, 0x0001)]
    [(0x0100, 0x49B1)]) (fun t =>
    t.reg .r3 == 0x0000 && t.st == 0x0A08) = true := by decide

theorem test_step_G4_addwLit : after (machine .m1110 0x0100 0x0800 [(.r3, 0x7FFF)]
    [(0x0100, 0x4A38), (0x0102, 0x0001)]) (fun t =>
    t.reg .r3 == 0x8000 && t.st == 0x0C04) = true := by decide

theorem test_step_G7_subwReg : after (machine .m1110 0x0100 0x0800 [(.r2, 0x8000), (.r1, 0x0001)]
    [(0x0100, 0x4921)]) (fun t =>
    t.reg .r2 == 0x7FFF && t.st == 0x090C) = true := by decide

theorem test_step_G10_iorwImm : after (machine .m1110 0x0100 0x0800 [(.r1, 0x8000)]
    [(0x0100, 0x4C91)]) (fun t =>
    t.reg .r1 == 0x8001 && t.st == 0x0D00) = true := by decide

theorem test_step_G11_eorwReg : after (machine .m1110 0x0100 0x0800 [(.r2, 0x1234)]
    [(0x0100, 0x4D22)]) (fun t =>
    t.reg .r2 == 0x0000 && t.st == 0x0A00) = true := by decide

theorem test_step_G12_tstwImm : after (machine .m1110 0x0100 0x0800 [(.r1, 0x0003)]
    [(0x0100, 0x4F91)]) (fun t =>
    t.reg .r1 == 0x0003 && t.st == 0x0900) = true := by decide

theorem test_step_G14_movbLoad : after (machine .m1110 0x0100 0x0800 [(.r1, 0xFFFF)]
    [(0x0100, 0x7818), (0x0102, 0x0201), (0x0200, 0x12AB)]) (fun t =>
    t.reg .r1 == 0x00AB && t.st == 0x0900) = true := by decide

theorem test_step_G15_addbLoad : after (machine .m1110 0x0100 0x0800 [(.r1, 0xFF01)]
    [(0x0100, 0x7A18), (0x0102, 0x0200), (0x0200, 0xFF01)]) (fun t =>
    t.reg .r1 == 0x0000 && t.st == 0x0A08) = true := by decide

theorem test_step_G16_movbStore : after (machine .m1110 0x0100 0x0800 [(.r1, 0x0034)]
    [(0x0100, 0x3818), (0x0102, 0x0201), (0x0200, 0x12AB)]) (fun t =>
    t.wordAt 0x0200 == 0x1234 && t.st == 0x0800) = true := by decide

theorem test_step_G17_addbStore : after (machine .m1110 0x0100 0x0800 [(.r1, 0x0020)]
    [(0x0100, 0x3A18), (0x0102, 0x0200), (0x0200, 0xF0AB)]) (fun t =>
    t.wordAt 0x0200 == 0x10AB && t.st == 0x0800) = true := by decide

theorem test_step_G18_addbStore : after (machine .m1110 0x0100 0x0800 [(.r1, 0x0010)]
    [(0x0100, 0x3A18), (0x0102, 0x0200), (0x0200, 0xF0AB)]) (fun t =>
    t.wordAt 0x0200 == 0x00AB && t.st == 0x0800) = true := by decide

theorem test_step_G22_movwLoad : after (machine .m1110 0x0100 0x0800 []
    [(0x0100, 0x7008), (0x0102, 0x0200), (0x0200, 0x8000)]) (fun t =>
    t.pc == 0x8000 && t.st == 0x0C00) = true := by decide

theorem test_step_G23_movwLit : after (machine .m1110 0x0100 0x0800 [(.r2, 0x0002)]
    [(0x0100, 0x481A), (0x0102, 0xFFFF)]) (fun t =>
    t.reg .r1 == 0x0001 && t.st == 0x0900) = true := by decide

theorem test_step_G24_movwImm : after (machine .m1110 0x0100 0x0800 []
    [(0x0100, 0x4893)]) (fun t =>
    t.reg .r1 == 0x0003 && t.st == 0x0900) = true := by decide

theorem test_step_A6_movbLoadDec : after (machine .m1110 0x0100 0x0800 [(.r1, 0xFFFF), (.r2, 0x0001)]
    [(0x0100, 0x5812), (0x0000, 0xAB00)]) (fun t =>
    t.reg .r2 == 0x0000 && t.reg .r1 == 0x00AB && t.st == 0x0980) = true := by decide

theorem test_step_A8_cmpwStoreDec : after (machine .m1110 0x0100 0x0800 [(.r1, 0x0005), (.r2, 0x0202)]
    [(0x0100, 0x1612), (0x0200, 0x0005)]) (fun t =>
    t.reg .r2 == 0x0200 && t.st == 0x0801) = true := by decide

theorem test_step_A9_addwLoadInc : after (machine .m1110 0x0100 0x0800 [(.r2, 0x0200)]
    [(0x0100, 0x6222), (0x0200, 0x0010)]) (fun t =>
    t.reg .r2 == 0x0212) = true := by decide

theorem test_step_B12_trap : after (machine .m1110 0x0100 0x0800 []
    [(0x0100, 0x9D00), (0x0026, 0x0400)]) (fun t =>
    t.wordAt 0x0020 == 0x9D00 && t.wordAt 0x0022 == 0x0800 && t.wordAt 0x0024 == 0x0100
      && t.pc == 0x0400) = true := by decide

theorem test_step_H1_slaoK : after (machine .m1110 0x0100 0x0800 [(.r1, 0x4000)]
    [(0x0100, 0xA091)]) (fun t =>
    t.reg .r1 == 0x8000 && t.st == 0x0C04) = true := by decide

theorem test_step_H8_slloK : after (machine .m1110 0x0100 0x0800 [(.r1, 0x00AB)]
    [(0x0100, 0xA294)]) (fun t =>
    t.reg .r1 == 0x0AB0 && t.st == 0x0800) = true := by decide

theorem test_step_H9_sllcK : after (machine .m1110 0x0100 0x0800 [(.r2, 0x12AB)]
    [(0x0100, 0xA3A8)]) (fun t =>
    t.reg .r2 == 0xAB12 && t.st == 0x0C00) = true := by decide

theorem test_step_H10_sraoK : after (machine .m1110 0x0100 0x0808 [(.r3, 0x8005)]
    [(0x0100, 0xA4B2)]) (fun t =>
    t.reg .r3 == 0xE001 && t.st == 0x0D00) = true := by decide

theorem test_step_H12_srllK : after (machine .m1110 0x0100 0x0800 [(.r1, 0x0001)]
    [(0x0100, 0xA591)]) (fun t =>
    t.reg .r1 == 0x0000 && t.st == 0x0A08) = true := by decide

theorem test_step_H14_srloK : after (machine .m1110 0x0100 0x0800 [(.r1, 0xAB12)]
    [(0x0100, 0xA698)]) (fun t =>
    t.reg .r1 == 0x00AB && t.st == 0x0900) = true := by decide

theorem test_step_H15_srlcK : after (machine .m1110 0x0100 0x0800 [(.r1, 0x0001)]
    [(0x0100, 0xA791)]) (fun t =>
    t.reg .r1 == 0x8000 && t.st == 0x0C00) = true := by decide

theorem test_step_H16_slaoX : after (machine .m1110 0x0100 0x0800 [(.r1, 0x0003)]
    [(0x0100, 0xA011)]) (fun t =>
    t.reg .r1 == 0x0018 && t.st == 0x0800) = true := by decide

theorem test_step_K1_rsts : after (machine .m1110 0x0100 0x080F []
    [(0x0100, 0x0204)]) (fun t =>
    t.st == 0x080B) = true := by decide

theorem test_step_K3_sets : after (machine .m1110 0x0100 0x0800 []
    [(0x0100, 0x0290)]) (fun t =>
    t.st == 0x0810) = true := by decide

theorem test_step_K6_dsbl : after (machine .m1110 0x0100 0x0800 []
    [(0x0100, 0x088F)]) (fun t =>
    t.st == 0xF800) = true := by decide

theorem test_step_K7_enbw : after (machine .m1110 0x0100 0xF800 []
    [(0x0100, 0x0841)]) (fun t =>
    t.st == 0xE800 && t.run == .waiting) = true := by decide

theorem test_step_K8_enbw : after (machine .m1110 0x0100 0xF800 []
    [(0x0100, 0x0848)]) (fun t =>
    t.st == 0x7800 && t.run == .waiting) = true := by decide

theorem test_step_K9_dsbw : after (machine .m1110 0x0100 0x0800 []
    [(0x0100, 0x08CF), (0x0026, 0x0400)]) (fun t =>
    t.st == 0xF800 && t.wordAt 0x0020 == 0x08CF && t.wordAt 0x0022 == 0xF800 && t.wordAt 0x0024 == 0x0100
      && t.pc == 0x0400) = true := by decide

theorem test_step_K10_waitE : after (machine .m1110 0x0100 0xF800 []
    [(0x0100, 0x0840), (0x0026, 0x0400)]) (fun t =>
    t.wordAt 0x0020 == 0x0840 && t.wordAt 0x0022 == 0xF800) = true := by decide

theorem test_step_K13_regm : after (machine .m1110 0x0100 0x0800 [(.r1, 0x1110), (.r2, 0x2220), (.r3, 0x3330),
      (.r4, 0x4440), (.r5, 0x5550), (.r6, 0x6660), (.r7, 0x7770)]
    [(0x0100, 0x0340)]) (fun t =>
    t.wordAt 0x0080 == 0x1110 && t.wordAt 0x0082 == 0x2220 && t.wordAt 0x0084 == 0x3330
      && t.wordAt 0x0086 == 0x4440 && t.wordAt 0x0088 == 0x5550 && t.wordAt 0x008A == 0x6660
      && t.wordAt 0x008C == 0x7770) = true := by decide

theorem test_step_K15_mreg : after (machine .m1110 0x0100 0x0800 []
    [(0x0100, 0x0740), (0x0080, 0x0001), (0x0082, 0x0002), (0x0084, 0x0003), (0x0086, 0x0004), (0x0088, 0x0005),
      (0x008A, 0x0006), (0x008C, 0x0007)]) (fun t =>
    t.reg .r1 == 0x0001 && t.reg .r2 == 0x0002 && t.reg .r3 == 0x0003 && t.reg .r4 == 0x0004
      && t.reg .r5 == 0x0005 && t.reg .r6 == 0x0006 && t.reg .r7 == 0x0007 && t.st == 0x0800) = true := by decide

theorem test_step_K16_retn : after (machine .m1110 0x0100 0x0800 []
    [(0x0100, 0x0411), (0x0022, 0x1855), (0x0024, 0x0300)]) (fun t =>
    t.st == 0x1855 && t.pc == 0x0300) = true := by decide

theorem test_step_K18_trap : after (machine .m1110 0x0100 0x0800 [(.r1, 0x5555)]
    [(0x0100, 0x0618), (0x0102, 0x0200), (0x0200, 0x0001), (0x0026, 0x0400)]) (fun t =>
    t.wordAt 0x0020 == 0x0618 && t.reg .r1 == 0x5555 && t.wordAt 0x0200 == 0x0001) = true := by decide

theorem test_step_K19_fclw : after (machine .m1110A 0x0100 0x0800 [(.r1, 0x5555)]
    [(0x0100, 0x0618), (0x0102, 0x0200), (0x0200, 0x0001)]) (fun t =>
    t.reg .r1 == 0x0000 && t.wordAt 0x0200 == 0x0000 && t.pc == 0x0104) = true := by decide

theorem test_step_K20_fclw : after (machine .m1110B 0x0100 0x0800 [(.r1, 0x5555)]
    [(0x0100, 0x0618), (0x0102, 0x0200), (0x0200, 0x0001)]) (fun t =>
    t.reg .r1 == 0x0001 && t.wordAt 0x0200 == 0x0000 && t.st == 0x0800) = true := by decide

theorem test_step_K21_fclb : after (machine .m1110B 0x0100 0x0800 [(.r1, 0x5555)]
    [(0x0100, 0x0E18), (0x0102, 0x0201), (0x0200, 0x12FF)]) (fun t =>
    t.reg .r1 == 0x00FF && t.wordAt 0x0200 == 0x1200) = true := by decide

theorem test_step_K22_fclb : after (machine .m1110A 0x0100 0x0800 [(.r1, 0x5555)]
    [(0x0100, 0x0E18), (0x0102, 0x0201), (0x0200, 0x12FF)]) (fun t =>
    t.reg .r1 == 0x0000 && t.wordAt 0x0200 == 0x1200) = true := by decide

theorem test_step_K23_skey : after (machine .m1110A 0x0100 0x0800 []
    [(0x0100, 0x0812)]) (fun t =>
    t.key == 2) = true := by decide

theorem test_step_K24_trap : after (machine .m1110 0x0100 0x0800 []
    [(0x0100, 0x0812), (0x0026, 0x0400)]) (fun t =>
    t.wordAt 0x0020 == 0x0812) = true := by decide

theorem test_step_K25_jkey : after (machine .m1112A 0x0100 0x0800 []
    [(0x0100, 0x081A), (0x0102, 0x4000)]) (fun t =>
    t.key == 2 && t.pc == 0x4000) = true := by decide

theorem test_step_K26_lcpu : after (withCpu 2 (machine .m1112A 0x0100 0x0800 []
    [(0x0100, 0x0823)])) (fun t =>
    t.reg .r3 == 0x0040) = true := by decide

theorem test_step_K27_lkey : after ((machine .m1112A 0x0100 0x0800 []
    [(0x0100, 0x0834)]).setKey 3) (fun t =>
    t.reg .r4 == 0x0003) = true := by decide

theorem test_step_K28_trap : after (machine .m1110 0x0100 0x0800 []
    [(0x0100, 0x0A00), (0x0026, 0x0400)]) (fun t =>
    t.wordAt 0x0020 == 0x0A00) = true := by decide

theorem test_step_T1_rbitK : after (machine .m1112A 0x0100 0x0800 [(.r2, 0x8001)]
    [(0x0100, 0x41AF)]) (fun t =>
    t.reg .r2 == 0x0001 && t.st == 0x0908) = true := by decide

theorem test_step_T2_sbitK : after (machine .m1112A 0x0100 0x0808 []
    [(0x0100, 0x4293)]) (fun t =>
    t.reg .r1 == 0x0008 && t.st == 0x0800) = true := by decide

theorem test_step_T3_cbitM : after (machine .m1112A 0x0100 0x0800 [(.r3, 0x0F0F)]
    [(0x0100, 0x4338), (0x0102, 0x00FF)]) (fun t =>
    t.reg .r3 == 0x0FF0 && t.st == 0x0808) = true := by decide

theorem test_step_T4_ibitX : after (machine .m1112A 0x0100 0x0800 [(.r1, 0xFFFF), (.r2, 0x0024)]
    [(0x0100, 0x4412)]) (fun t =>
    t.reg .r1 == 0x0010 && t.st == 0x0808) = true := by decide

theorem test_step_T5_tsbtK : after (machine .m1112A 0x0100 0x0800 [(.r1, 0x8001)]
    [(0x0100, 0x459F)]) (fun t =>
    t.reg .r1 == 0x0002 && t.st == 0x0808) = true := by decide

theorem test_step_T6_tbitM : after (machine .m1112A 0x0100 0x0808 [(.r1, 0x00FF), (.r2, 0x0FF0)]
    [(0x0100, 0x461A), (0x0102, 0xFF00)]) (fun t =>
    t.reg .r1 == 0x00FF) = true := by decide

theorem test_step_T7_sbitM : after (machine .m1112A 0x0100 0x0808 [(.r1, 0x1234)]
    [(0x0100, 0x4218), (0x0102, 0x0000)]) (fun t =>
    t.reg .r1 == 0x1234 && t.st == 0x0800) = true := by decide

theorem test_step_T8_ibitM : after (machine .m1112A 0x0100 0x0808 [(.r1, 0x1234)]
    [(0x0100, 0x4418), (0x0102, 0x0000)]) (fun t =>
    t.reg .r1 == 0x0000 && t.st == 0x0A00) = true := by decide

theorem test_step_T9_rbitX : after (machine .m1112A 0x0100 0x0800 [(.r1, 0x0003)]
    [(0x0100, 0x4111)]) (fun t =>
    t.reg .r1 == 0x0003 && t.st == 0x0900) = true := by decide

theorem test_step_T11_negt : after (machine .m1112A 0x0100 0x0800 [(.r2, 0x0005)]
    [(0x0100, 0x4712)]) (fun t =>
    t.reg .r1 == 0xFFFB && t.st == 0x0D00) = true := by decide

theorem test_step_T12_cplm : after (machine .m1112A 0x0100 0x0800 [(.r2, 0x00FF)]
    [(0x0100, 0x471A)]) (fun t =>
    t.reg .r1 == 0xFF00 && t.st == 0x0C00) = true := by decide

theorem test_step_T13_movp : after (machine .m1112A 0x0100 0x0800 [(.r2, 0xFFFB)]
    [(0x0100, 0x4792)]) (fun t =>
    t.reg .r1 == 0x0005 && t.st == 0x0900) = true := by decide

theorem test_step_T14_movn : after (machine .m1112A 0x0100 0x0800 [(.r2, 0x0005)]
    [(0x0100, 0x479A)]) (fun t =>
    t.reg .r1 == 0xFFFB && t.st == 0x0D00) = true := by decide

theorem test_step_T15_negt : after (machine .m1112A 0x0100 0x0800 [(.r2, 0x8000)]
    [(0x0100, 0x4712)]) (fun t =>
    t.reg .r1 == 0x8000 && t.st == 0x0C00) = true := by decide

theorem test_step_T15b_movp : after (machine .m1112A 0x0100 0x0800 [(.r2, 0x8000)]
    [(0x0100, 0x4792)]) (fun t =>
    t.reg .r1 == 0x8000 && t.st == 0x0C00) = true := by decide

theorem test_step_N1_slan : after (machine .m1112A 0x0100 0x0800 [(.r1, 0x00AB), (.r2, 0x0010)]
    [(0x0100, 0xA01A)]) (fun t =>
    t.reg .r1 == 0x5580 && t.reg .r2 == 0x0017 && t.st == 0x0800) = true := by decide

theorem test_step_N2_slan : after (machine .m1112A 0x0100 0x0800 [(.r1, 0xFFFF)]
    [(0x0100, 0xA01A)]) (fun t =>
    t.reg .r1 == 0x8000 && t.reg .r2 == 0x000F && t.st == 0x0C00) = true := by decide

theorem test_step_N5_slln : after (machine .m1112A 0x0100 0x0800 [(.r1, 0x00AB)]
    [(0x0100, 0xA21A)]) (fun t =>
    t.reg .r1 == 0xAB00 && t.reg .r2 == 0x0008 && t.st == 0x0C00) = true := by decide

theorem test_step_N7_sran : after (machine .m1112A 0x0100 0x0800 [(.r1, 0x0140)]
    [(0x0100, 0xA41A)]) (fun t =>
    t.reg .r1 == 0x0005 && t.reg .r2 == 0x0006 && t.st == 0x0900) = true := by decide

theorem test_step_N9_srln : after (machine .m1112A 0x0100 0x0800 [(.r1, 0x8000)]
    [(0x0100, 0xA61A)]) (fun t =>
    t.reg .r1 == 0x0001 && t.reg .r2 == 0x000F && t.st == 0x0900) = true := by decide

theorem test_step_N10_dlan : after (machine .m1112A 0x0100 0x0800 [(.r3, 0x0001)]
    [(0x0100, 0xA829)]) (fun t =>
    t.reg .r2 == 0x4000 && t.reg .r3 == 0x0000 && t.reg .r1 == 0x001D && t.st == 0x0800) = true := by decide

theorem test_step_N13_dlln : after (machine .m1112A 0x0100 0x0800 [(.r3, 0x0001)]
    [(0x0100, 0xAA29)]) (fun t =>
    t.reg .r2 == 0x8000 && t.reg .r3 == 0x0000 && t.reg .r1 == 0x001F && t.st == 0x0C00) = true := by decide

theorem test_step_N14_dran : after (machine .m1112A 0x0100 0x0800 [(.r2, 0x0001)]
    [(0x0100, 0xAC29)]) (fun t =>
    t.reg .r2 == 0x0000 && t.reg .r3 == 0x0001 && t.reg .r1 == 0x000F && t.st == 0x0900) = true := by decide

theorem test_step_N16_drln : after (machine .m1112A 0x0100 0x0800 [(.r2, 0x8000)]
    [(0x0100, 0xAE29)]) (fun t =>
    t.reg .r2 == 0x0000 && t.reg .r3 == 0x0001 && t.reg .r1 == 0x001F && t.st == 0x0900) = true := by decide

theorem test_step_N17_trap : after (machine .m1112A 0x0100 0x0800 []
    [(0x0100, 0xA11A), (0x0026, 0x0400)]) (fun t =>
    t.wordAt 0x0020 == 0xA11A) = true := by decide

theorem test_step_D1_dlaoK : after (machine .m1112A 0x0100 0x0800 [(.r2, 0x0001), (.r3, 0x4001)]
    [(0x0100, 0xA8A1)]) (fun t =>
    t.reg .r2 == 0x0003 && t.reg .r3 == 0x0002 && t.st == 0x0800) = true := by decide

theorem test_step_D2_dlaoK : after (machine .m1112A 0x0100 0x0800 [(.r2, 0x4000)]
    [(0x0100, 0xA8A1)]) (fun t =>
    t.reg .r2 == 0x8000 && t.reg .r3 == 0x0000 && t.st == 0x0C04) = true := by decide

theorem test_step_D7_dlllK : after (machine .m1112A 0x0100 0x0808 [(.r2, 0x8000), (.r3, 0x0001)]
    [(0x0100, 0xA9A1)]) (fun t =>
    t.reg .r2 == 0x0000 && t.reg .r3 == 0x0003 && t.st == 0x0908) = true := by decide

theorem test_step_D8_dlloK : after (machine .m1112A 0x0100 0x0800 [(.r2, 0x1234), (.r3, 0x5678)]
    [(0x0100, 0xAAA8)]) (fun t =>
    t.reg .r2 == 0x3456 && t.reg .r3 == 0x7800 && t.st == 0x0800) = true := by decide

theorem test_step_D9_dlloX : after (machine .m1112A 0x0100 0x0800 [(.r1, 0x0028), (.r2, 0x1234), (.r3, 0x5678)]
    [(0x0100, 0xAA21)]) (fun t =>
    t.reg .r2 == 0x3456 && t.reg .r3 == 0x7800) = true := by decide

theorem test_step_D10_dllcK : after (machine .m1112A 0x0100 0x0800 [(.r2, 0x1234), (.r3, 0x5678)]
    [(0x0100, 0xABB0)]) (fun t =>
    t.reg .r2 == 0x5678 && t.reg .r3 == 0x1234) = true := by decide

theorem test_step_D12_draoK : after (machine .m1112A 0x0100 0x0800 [(.r2, 0x0003), (.r3, 0x0002)]
    [(0x0100, 0xACA1)]) (fun t =>
    t.reg .r2 == 0x0001 && t.reg .r3 == 0x4001 && t.st == 0x0900) = true := by decide

theorem test_step_D13_drllK : after (machine .m1112A 0x0100 0x0800 [(.r2, 0x0001), (.r3, 0x0001)]
    [(0x0100, 0xADA1)]) (fun t =>
    t.reg .r2 == 0x0000 && t.reg .r3 == 0x8000 && t.st == 0x0808) = true := by decide

theorem test_step_D14_drloK : after (machine .m1112A 0x0100 0x0800 [(.r2, 0x1234), (.r3, 0x5678)]
    [(0x0100, 0xAEA4)]) (fun t =>
    t.reg .r2 == 0x0123 && t.reg .r3 == 0x4567 && t.st == 0x0900) = true := by decide

theorem test_step_D15_drlcK : after (machine .m1112A 0x0100 0x0800 [(.r2, 0x1234), (.r3, 0x5678)]
    [(0x0100, 0xAFA4)]) (fun t =>
    t.reg .r2 == 0x8123 && t.reg .r3 == 0x4567 && t.st == 0x0D00) = true := by decide

theorem test_step_M1_mult : after (machine .m1112A 0x0100 0x0800 [(.r2, 0xAAAA), (.r3, 0x0003)]
    [(0x0100, 0xB338), (0x0102, 0x0200), (0x0200, 0x0005)]) (fun t =>
    t.reg .r2 == 0x0000 && t.reg .r3 == 0x000F && t.st == 0x0900) = true := by decide

theorem test_step_M2_mult : after (machine .m1112A 0x0100 0x0800 [(.r3, 0xFFFE)]
    [(0x0100, 0xB338), (0x0102, 0x0200), (0x0200, 0x0003)]) (fun t =>
    t.reg .r2 == 0xFFFF && t.reg .r3 == 0xFFFA && t.st == 0x0C00) = true := by decide

theorem test_step_M6_mlta : after (machine .m1112A 0x0100 0x0800 [(.r2, 0x0007), (.r3, 0x0064)]
    [(0x0100, 0xB328), (0x0102, 0x0200), (0x0200, 0x00C8)]) (fun t =>
    t.reg .r2 == 0x0000 && t.reg .r3 == 0x4E27) = true := by decide

theorem test_step_M7_mlta : after (machine .m1112A 0x0100 0x0800 [(.r2, 0xFFFF), (.r3, 0xFFFF)]
    [(0x0100, 0xB328), (0x0102, 0x0200), (0x0200, 0x0001)]) (fun t =>
    t.reg .r2 == 0xFFFF && t.reg .r3 == 0xFFFE) = true := by decide

theorem test_step_M9_divd : after (machine .m1112A 0x0100 0x0800 [(.r3, 0x4E27)]
    [(0x0100, 0xB428), (0x0102, 0x0200), (0x0200, 0x0064)]) (fun t =>
    t.reg .r3 == 0x00C8 && t.reg .r2 == 0x0007 && t.st == 0x0800) = true := by decide

theorem test_step_M10_divd : after (machine .m1112A 0x0100 0x0800 [(.r2, 0xFFFF), (.r3, 0xB1D9)]
    [(0x0100, 0xB428), (0x0102, 0x0200), (0x0200, 0x0064)]) (fun t =>
    t.reg .r3 == 0xFF38 && t.reg .r2 == 0xFFF9 && t.st == 0x0C00) = true := by decide

theorem test_step_M14_dlod : after (machine .m1112A 0x0100 0x0800 []
    [(0x0100, 0xB528), (0x0102, 0x0200), (0x0200, 0xFFFF), (0x0202, 0xFFFA)]) (fun t =>
    t.reg .r2 == 0xFFFF && t.reg .r3 == 0xFFFA && t.st == 0x0C00) = true := by decide

theorem test_step_M15_dsta : after (machine .m1112A 0x0100 0x0800 [(.r2, 0x0001), (.r3, 0x0002)]
    [(0x0100, 0xB028), (0x0102, 0x0200)]) (fun t =>
    t.wordAt 0x0200 == 0x0001 && t.wordAt 0x0202 == 0x0002 && t.st == 0x0800) = true := by decide

theorem test_step_M16_dadd : after (machine .m1112A 0x0100 0x0800 [(.r2, 0x0001), (.r3, 0x7FFF)]
    [(0x0100, 0xB228), (0x0102, 0x0200), (0x0202, 0x0001)]) (fun t =>
    t.reg .r2 == 0x0002 && t.reg .r3 == 0x0000 && t.st == 0x0800) = true := by decide

theorem test_step_M17_dadd : after (machine .m1112A 0x0100 0x0800 [(.r2, 0x7FFF), (.r3, 0x7FFF)]
    [(0x0100, 0xB228), (0x0102, 0x0200), (0x0202, 0x0001)]) (fun t =>
    t.reg .r2 == 0x8000 && t.reg .r3 == 0x0000 && t.st == 0x0C04) = true := by decide

theorem test_step_M19_dsub : after (machine .m1112A 0x0100 0x0800 [(.r2, 0x0001)]
    [(0x0100, 0xB128), (0x0102, 0x0200), (0x0202, 0x0001)]) (fun t =>
    t.reg .r2 == 0x0000 && t.reg .r3 == 0x7FFF && t.st == 0x0908) = true := by decide

theorem test_step_M20_dsub : after (machine .m1112A 0x0100 0x0800 []
    [(0x0100, 0xB128), (0x0102, 0x0200), (0x0202, 0x0001)]) (fun t =>
    t.reg .r2 == 0xFFFF && t.reg .r3 == 0xFFFF && t.st == 0x0D00) = true := by decide

theorem test_step_T10_trap : after (machine .m1110 0x0100 0x0800 []
    [(0x0100, 0x4293), (0x0026, 0x0400)]) (fun t =>
    t.wordAt 0x0020 == 0x4293) = true := by decide

theorem test_step_N18_trap : after (machine .m1110 0x0100 0x0800 []
    [(0x0100, 0xA01A), (0x0026, 0x0400)]) (fun t =>
    t.wordAt 0x0020 == 0xA01A) = true := by decide

theorem test_step_M23_trap : after (machine .m1110 0x0100 0x0800 []
    [(0x0100, 0xB328), (0x0102, 0x0200), (0x0026, 0x0400)]) (fun t =>
    t.wordAt 0x0020 == 0xB328) = true := by decide

theorem test_step_C1_zadd : after (withBytes [(0x0300, 0x42), (0x0301, 0x6D), (0x0340, 0xFF), (0x0341, 0xFF),
      (0x0342, 0xFF), (0x0343, 0xFF)]
    (machine .m1111A 0x0100 0x0800 [(.r1, 0x0300), (.r2, 0x0340), (.r5, 0x5555), (.r6, 0x6666), (.r7, 0x7777)]
    [(0x0100, 0xC212), (0x0102, 0x1300)])) (fun t =>
    bytesAt t 0x0340 4 == [0x00, 0x00, 0x42, 0x6D] && t.st == 0x0800 && t.wordAt 0x0020 == 0x5555
      && t.wordAt 0x0022 == 0x6666 && t.wordAt 0x0024 == 0x7777 && t.pc == 0x0104) = true := by decide

theorem test_step_C8_cmpd : after (withBytes [(0x0300, 0x00), (0x0301, 0x1C), (0x0340, 0x1D)]
    (machine .m1111A 0x0100 0x0800 [(.r1, 0x0300), (.r2, 0x0340), (.r5, 0x5555), (.r6, 0x6666), (.r7, 0x7777)]
    [(0x0100, 0xC512), (0x0102, 0x1000)])) (fun t =>
    bytesAt t 0x0340 1 == [0x1D] && t.st == 0x0802 && t.wordAt 0x0020 == 0x5555 && t.wordAt 0x0022 == 0x6666
      && t.wordAt 0x0024 == 0x7777 && t.pc == 0x0104) = true := by decide

theorem test_step_C9_cmpd : after (withBytes [(0x0300, 0x0C), (0x0340, 0x00), (0x0341, 0x0D)]
    (machine .m1111A 0x0100 0x0800 [(.r1, 0x0300), (.r2, 0x0340), (.r5, 0x5555), (.r6, 0x6666), (.r7, 0x7777)]
    [(0x0100, 0xC512), (0x0102, 0x0100)])) (fun t =>
    t.st == 0x0801 && t.wordAt 0x0020 == 0x5555 && t.wordAt 0x0022 == 0x6666 && t.wordAt 0x0024 == 0x7777
      && t.pc == 0x0104) = true := by decide

theorem test_step_C12_sftr : after (withBytes [(0x0300, 0x01), (0x0301, 0x38), (0x0302, 0x5C)]
    (machine .m1111A 0x0100 0x0800 [(.r1, 0x0300), (.r2, 0x0340), (.r5, 0x5555), (.r6, 0x6666), (.r7, 0x7777)]
    [(0x0100, 0xC810), (0x0102, 0x2200)])) (fun t =>
    bytesAt t 0x0300 3 == [0x00, 0x01, 0x3C] && t.st == 0x0800 && t.wordAt 0x0020 == 0x5555
      && t.wordAt 0x0022 == 0x6666 && t.wordAt 0x0024 == 0x7777 && t.pc == 0x0104) = true := by decide

theorem test_step_C16_sftl : after (withBytes [(0x0300, 0x01), (0x0301, 0x38), (0x0302, 0x5C)]
    (machine .m1111A 0x0100 0x0800 [(.r1, 0x0300), (.r2, 0x0340), (.r5, 0x5555), (.r6, 0x6666), (.r7, 0x7777)]
    [(0x0100, 0xCA10), (0x0102, 0x2100)])) (fun t =>
    bytesAt t 0x0300 3 == [0x13, 0x85, 0x0C] && t.wordAt 0x0020 == 0x5555 && t.wordAt 0x0022 == 0x6666
      && t.wordAt 0x0024 == 0x7777 && t.pc == 0x0104) = true := by decide

theorem test_step_C19_movr : after (withBytes [(0x0300, 0xC1), (0x0301, 0xC2), (0x0302, 0xC3), (0x0340, 0xB0),
      (0x0341, 0xB0), (0x0342, 0xB0), (0x0343, 0xB0), (0x0344, 0xB0)]
    (machine .m1111A 0x0100 0x0800 [(.r1, 0x0300), (.r2, 0x0340), (.r5, 0x5555), (.r6, 0x6666), (.r7, 0x7777)]
    [(0x0100, 0xC912), (0x0102, 0x2400)])) (fun t =>
    bytesAt t 0x0340 5 == [0xB0, 0xB0, 0xC1, 0xC2, 0xC3] && t.wordAt 0x0020 == 0x5555 && t.wordAt 0x0022 == 0x6666
      && t.wordAt 0x0024 == 0x7777 && t.pc == 0x0104) = true := by decide

theorem test_step_C21_movl : after (withBytes [(0x0300, 0xC1), (0x0301, 0xC2), (0x0302, 0xC3), (0x0340, 0xB0),
      (0x0341, 0xB0), (0x0342, 0xB0), (0x0343, 0xB0), (0x0344, 0xB0)]
    (machine .m1111A 0x0100 0x0800 [(.r1, 0x0300), (.r2, 0x0340), (.r5, 0x5555), (.r6, 0x6666), (.r7, 0x7777)]
    [(0x0100, 0xCB12), (0x0102, 0x2400)])) (fun t =>
    bytesAt t 0x0340 5 == [0xC1, 0xC2, 0xC3, 0xB0, 0xB0] && t.wordAt 0x0020 == 0x5555 && t.wordAt 0x0022 == 0x6666
      && t.wordAt 0x0024 == 0x7777 && t.pc == 0x0104) = true := by decide

theorem test_step_C24_comp : after (withBytes [(0x0300, 0xC1), (0x0301, 0xC2), (0x0340, 0xC1), (0x0341, 0xC2),
      (0x0342, 0xA0)]
    (machine .m1111A 0x0100 0x0800 [(.r1, 0x0300), (.r2, 0x0340), (.r5, 0x5555), (.r6, 0x6666), (.r7, 0x7777)]
    [(0x0100, 0xCC12), (0x0102, 0x1200)])) (fun t =>
    t.st == 0x0801 && t.wordAt 0x0020 == 0x5555 && t.wordAt 0x0022 == 0x6666 && t.wordAt 0x0024 == 0x7777
      && t.pc == 0x0104) = true := by decide

theorem test_step_C25_comp : after (withBytes [(0x0300, 0xC1), (0x0301, 0xC3), (0x0340, 0xC1), (0x0341, 0xC2),
      (0x0342, 0xC4)]
    (machine .m1111A 0x0100 0x0800 [(.r1, 0x0300), (.r2, 0x0340), (.r5, 0x5555), (.r6, 0x6666), (.r7, 0x7777)]
    [(0x0100, 0xCC12), (0x0102, 0x1200)])) (fun t =>
    t.st == 0x0802 && t.wordAt 0x0020 == 0x5555 && t.wordAt 0x0022 == 0x6666 && t.wordAt 0x0024 == 0x7777
      && t.pc == 0x0104) = true := by decide

/-! ## Ill-formed terms are refused by WellFormed -/

theorem test_wf_jsbr_register_zero : wellFormed .m1110 (.jsbr .r0 ⟨false, none, .r2⟩) = false := by decide
theorem test_wf_enbw_zero : wellFormed .m1110 (.enbw 0) = false := by decide
theorem test_wf_dsbw_zero : wellFormed .m1110 (.dsbw 0) = false := by decide
theorem test_wf_mlta_odd : wellFormed .m1112A (.mlta .r3 ⟨false, none, .r2⟩) = false := by decide
theorem test_wf_mult_even : wellFormed .m1112A (.mult .r4 ⟨false, none, .r2⟩) = false := by decide
theorem test_wf_decimal_bit7 : wellFormed .m1111A (.addd .r1 .r2 ⟨0, 0, true, .r0, false, .r0⟩) = false := by decide
theorem test_wf_decimal_bit3 : wellFormed .m1111B (.comp .r1 .r2 ⟨0, 0, false, .r0, true, .r0⟩) = false := by decide
theorem test_wf_scientific_on_1110 : wellFormed .m1110B (.dlod .r2 ⟨false, none, .r1⟩) = false := by decide
theorem test_wf_decimal_on_1112 : wellFormed .m1112B (.zadd .r1 .r2 ⟨0, 0, false, .r0, false, .r0⟩) = false := by decide
theorem test_wf_key_on_1110 : wellFormed .m1110 (.skey 1) = false := by decide
theorem test_wf_fetch_clear_on_1110 : wellFormed .m1110 (.fclw .r1 ⟨false, none, .r2⟩) = false := by decide
theorem test_wf_trap_of_an_instruction : wellFormed .m1110 (.trap 0x7018) = false := by decide
theorem test_wf_trap_of_class_d : wellFormed .m1110 (.trap 0xD018) = true := by decide

/-! ## Words of the table, encoding and the first step after reset -/

theorem test_table_words :
    ([(16, 0x4921, .subwReg .r2 .r1), (32, 0x01007018, .movwLoad .r1 ⟨false, some 0x0100, .r0⟩),
      (16, 0x7018, .movwLoad .r1 ⟨false, some 0, .r0⟩), (16, 0xC312, .addd .r1 .r2 ⟨0, 0, false, .r0, false, .r0⟩),
      (16, 0xD123, .trap 0xD123), (32, 0x1234081A, .jkey 2 0x1234)] : List (Nat × Nat × Instr)).all
      (fun r => decodeTableWord r.1 r.2.1 == some r.2.2) = true := by decide

theorem test_encode :
    encode (.addbStoreInc .r1 ⟨true, some 0x0040, .r2⟩) = [0x2A9A, 0x0040] ∧ encode (.brun 0xE0) = [0x90E0] ∧
      encode (.cmpd .r3 .r2 ⟨3, 3, false, .r0, false, .r4⟩) = [0xC532, 0x3304] := by decide

theorem test_first_step_after_reset :
    after (State.reset.withFetchWord 32 0x12344818) (fun t => t.reg .r1 == 0x1234 && t.pc == 0x0104) = true ∧
      after (State.reset.withFetchWord 16 0x0000) (fun t => t.run == .halted && t.pc == 0x0102) = true ∧
      after (State.reset.withFetchWord 16 0xC312) (fun t => t.par.model == .m1111B) = true := by decide

/-! ## Interrupts, inputs, the device, stops -/

/-- A level-2 request whose module address word is 4321. -/
def request2 : Request := ⟨.l2, 0x4321⟩

/-- `60_exceptions.md` R472, R480 to R483: a request arrives, is enabled, and is taken at once. -/
theorem test_interrupt_taken :
    after { machine .m1110 0x0100 0x0800 [] [(0x000E, 0x0400)] with inputs := [[.request request2]] } (fun t =>
      t.wordAt 0x0008 == 0x4321 && t.wordAt 0x000A == 0x0800 && t.wordAt 0x000C == 0x0100 && t.pc == 0x0400 &&
        t.pending.isEmpty) = true := by decide

/-- A masked level is not taken: the instruction at the program counter, NOPR, runs. -/
theorem test_interrupt_masked :
    after { machine .m1110 0x0100 0x2800 [] [(0x0100, 0x8000)] with pending := [request2] } (fun t =>
      t.pc == 0x0102 && t.pending == [request2]) = true := by decide

/-- R280: level 2 ends a wait at NEXT, the request still pending. -/
theorem test_wait_ends :
    after { machine .m1110 0x0100 0x0800 [] [] with pending := [request2], run := .waiting } (fun t =>
      t.pc == 0x0102 && t.run == .running && t.pending == [request2]) = true := by decide

/-- R271: RUN lets a halted processor continue. -/
theorem test_run_input :
    after { machine .m1110 0x0100 0x0800 [] [(0x0100, 0x9020)] with run := .halted, inputs := [[.run]] } (fun t =>
      t.run == .running && t.pc == 0x0140) = true := by decide

/-- R78: a word read from F000 up is the device's answer. -/
theorem test_device_read :
    after { machine .m1110 0x0100 0x0800 [] [(0x0100, 0x7018), (0x0102, 0xF100)] with
        deviceScript := [.answer 0xBEEF []] } (fun t =>
      t.reg .r1 == 0xBEEF && t.deviceLog == [⟨0xF100, .word, 0, none⟩]) = true := by decide

/-- R29: an odd program counter stops at the fetch. -/
theorem test_odd_program_counter :
    step (machine .m1110 0x0101 0x0800 [] []) = .fault .oddProgramCounter := rfl

/-- R472: an entry whose own block is absent stops. -/
theorem test_entry_aborted : step (withMemory 0 (machine .m1110 0x9000 0x0800 [] [])) = .fault .entryAborted := rfl

/-- Vector A13 with a byte operand, whose address the block holds exactly (R478): a direct class 7 load that aborts has
changed nothing. -/
theorem test_abort_direct_byte_load :
    after (withMemory 0x4000 (machine .m1110 0x0100 0x0800 [(.r1, 0x1234)]
      [(0x0100, 0x7818), (0x0102, 0x9000), (0x002E, 0x0600)])) (fun t =>
        t.wordAt 0x0028 == 0x9000 && t.wordAt 0x002A == 0x0800 && t.wordAt 0x002C == 0x0100 && t.pc == 0x0600 &&
          t.reg .r1 == 0x1234) = true := by decide

/-- R338, R340, R343: the bytes that MOVR and MOVL can write, two from the right and two from the left of the four. -/
theorem test_moved_bytes :
    movedRight ⟨0x0300, 2⟩ ⟨0x0340, 4⟩ = [0x0343, 0x0342] ∧ movedLeft ⟨0x0300, 2⟩ ⟨0x0340, 4⟩ = [0x0340, 0x0341] := by
  decide

/-- R40, R297, R322, R323, R405: the refusals. -/
theorem test_refusals :
    exec (.msts .absolute 1) (machine .m1110 0x0100 0x0800 [] []) = .refused .activeBitCleared ∧
      exec (.lcpu .r0) (machine .m1112A 0x0100 0x0800 [] []) = .refused .processorRegisterTarget ∧
      exec (.zadd .r0 .r2 ⟨0, 0, false, .r0, false, .r0⟩) (machine .m1111A 0x0100 0x0800 [] []) =
        .refused .decimalRegisterZero ∧
      exec (.zadd .r1 .r2 ⟨15, 0, false, .r3, false, .r0⟩) (machine .m1111A 0x0100 0x0800 [(.r3, 0xFFF1)] []) =
        .refused .decimalFieldTooLong ∧
      exec (.dlan .r3 .r1) (machine .m1112A 0x0100 0x0800 [] []) = .refused .pairDesignator := by
  refine ⟨?_, ?_, ?_, ?_, ?_⟩ <;> rfl

/-! ## The hypotheses of the statements are met

Each theorem `meets_<Name>` shows states and operands that meet all hypotheses of `Obligations.<Name>` together, clause by
clause where it has several; the docstring of a shared one names its statements. -/

theorem block_of (s : State) (l : Level)
    (h : ([0, 2, 4, 6].all fun k => s.site (busAddress .word (blockBase s.par.cpuId l + k)) == .memory) = true) :
    BlockInMemory s l := fun k hk => beq_iff_eq.mp (List.all_eq_true.mp h k hk)

theorem words_of (s : State) (as : List Word) (h : (as.all fun a => s.site (busAddress .word a) == .memory) = true) :
    WordsInMemory s as := fun a ha => beq_iff_eq.mp (List.all_eq_true.mp h a ha)

theorem bytes_of (s : State) (as : List Word) (h : (as.all fun a => s.site (busAddress .byte a) == .memory) = true) :
    BytesInMemory s as := fun a ha => beq_iff_eq.mp (List.all_eq_true.mp h a ha)

/-- A 1110 with four words of code and data. -/
def basic : State := machine .m1110 0x0100 0x0800 [(.r1, 0x0200), (.r3, 0xEFFE)] [(0x0200, 0x0300), (0xEFFE, 0x1234)]

/-- A 1112A. -/
def scientific : State := machine .m1112A 0x0100 0x0800 [(.r1, 0x0200), (.r2, 1), (.r3, 7)] [(0x0200, 2)]

/-- A 1111A with two valid decimal fields, of two bytes at 0300 and of four at 0340. -/
def decimalMachine : State :=
  withBytes [(0x0300, 0x42), (0x0301, 0x6D), (0x0340, 0x07), (0x0341, 0x99), (0x0342, 0x74), (0x0343, 0x3C)]
    (machine .m1111A 0x0100 0x0800 [(.r1, 0x0300), (.r2, 0x0340)] [])

/-- Lengths 2 and 4. -/
def twoAndFour : DecOperands := ⟨1, 3, false, .r0, false, .r0⟩

/-- Direct, W2 = 0200, no index. -/
def at0200 : MemOp := ⟨false, some 0x0200, .r0⟩

/-- The blocks of TrapRowsTrap, ReservedEncodingsTrap, UnimplementedOnModelTraps, WaitFamilyCompletes and every other
statement with an entry. -/
theorem meets_blocks :
    BlockInMemory basic .unimplemented ∧ BlockInMemory basic .abort ∧ BlockInMemory basic (.system .l1) ∧
      BlockInMemory basic (.system .l4) ∧ BlockInMemory (withCpu 3 scientific) .abort := by
  refine ⟨?_, ?_, ?_, ?_, ?_⟩ <;> exact block_of _ _ (by decide)

theorem meets_DecodeEncode :
    wellFormed .m1112B (.mult .r7 ⟨true, some 0xFFFF, .r7⟩) = true ∧ wellFormed .m1110 .halt = true ∧
      wellFormed .m1111A (.comp .r7 .r7 ⟨15, 15, false, .r7, false, .r7⟩) = true := by decide

theorem meets_EncodeDecode :
    (0x00FF : Word).extractLsb' 8 8 = 0 ∧ (0x0100 : Word).extractLsb' 8 8 ≠ 0 ∧ fieldC 0xBFFF ≠ 12 ∧
      (0x7777 : Word).getLsbD 7 = false ∧ (0x7777 : Word).getLsbD 3 = false := by decide

theorem meets_SecondWordFromFirst :
    wellFormed .m1110 (.jump ⟨false, some 0, .r0⟩) = true ∧ wellFormed .m1110 (.jump ⟨false, none, .r0⟩) = true := by
  decide

/-- A word of each alternative of R121 and of R122. -/
theorem meets_ReservedEncodingsTrap :
    SourceTraps .m1110 0xD000 ∧ SourceTraps .m1110 0xB328 ∧ SourceTraps .m1110 0xC612 ∧ SourceTraps .m1110 0x8D00 ∧
    SourceTraps .m1110 0x0E18 ∧ SourceTraps .m1111A 0xC612 ∧ SourceTraps .m1112A 0xB01F ∧
    DecisionTraps .m1110 0x0A00 0 ∧ DecisionTraps .m1110 0x08F0 0 ∧ DecisionTraps .m1110 0x0810 0 ∧
    DecisionTraps .m1110 0x0823 0 ∧ DecisionTraps .m1112A 0x0814 0 ∧ DecisionTraps .m1110B 0x0818 0 ∧
    DecisionTraps .m1112A 0x0828 0 ∧ DecisionTraps .m1110 0x4112 0 ∧ DecisionTraps .m1110 0xA812 0 ∧
    DecisionTraps .m1112A 0xA119 0 ∧ DecisionTraps .m1112A 0xB728 0 ∧ DecisionTraps .m1111A 0xC312 0x0080 := by
  refine ⟨(.inl ?_), (.inr <| .inl ?_), (.inr <| .inr <| .inl ?_), (.inr <| .inr <| .inr <| .inl ?_),
    (.inr <| .inr <| .inr <| .inr <| .inl ?_), (.inr <| .inr <| .inr <| .inr <| .inr <| .inl ?_),
    (.inr <| .inr <| .inr <| .inr <| .inr <| .inr <| ?_), (.inl ?_), (.inr <| .inl ⟨rfl, rfl, .inl ?_⟩),
    (.inr <| .inl ⟨rfl, rfl, .inr <| .inl ?_⟩), (.inr <| .inl ⟨rfl, rfl, .inr <| .inr <| .inl ?_⟩),
    (.inr <| .inl ⟨rfl, rfl, .inr <| .inr <| .inr <| .inl ?_⟩),
    (.inr <| .inl ⟨rfl, rfl, .inr <| .inr <| .inr <| .inr <| .inl ?_⟩),
    (.inr <| .inl ⟨rfl, rfl, .inr <| .inr <| .inr <| .inr <| .inr <| ?_⟩), (.inr <| .inr <| .inl ?_),
    (.inr <| .inr <| .inr <| .inl ?_), (.inr <| .inr <| .inr <| .inr <| .inl ?_),
    (.inr <| .inr <| .inr <| .inr <| .inr <| .inl ?_), (.inr <| .inr <| .inr <| .inr <| .inr <| .inr <| ?_)⟩ <;> decide

theorem meets_ReservedBranchesTrap :
    fieldC 0x8D00 = 8 ∧ (fieldT 0x8D00).toNat = 13 ∧ fieldC 0x9FFF = 9 ∧ (fieldT 0x9FFF).toNat = 15 := by decide

theorem meets_UnimplementedOnModelTraps :
    implementedOn basic.par.model (.mult .r3 at0200) = false ∧ implementedOn basic.par.model (.trap 0x7018) = false ∧
      implementedOn scientific.par.model (.comp .r1 .r2 twoAndFour) = false := by decide

theorem meets_StepKeepsSound : State.reset.Sound ∧ ∃ t, step State.reset = .next t := by
  refine ⟨?_, _, rfl⟩
  unfold State.Sound
  decide

/-- One word at the last present address, and two words. -/
theorem meets_StepRunsDecoded :
    (let u := arrive (machine .m1110 0xEFFE 0x0800 [] [(0xEFFE, 0x9020)]);
      u.run = .running ∧ pickLevel u = none ∧ u.pc.getLsbD 0 = false ∧ InMemory u .word u.pc ∧
        hasSecondWord u.par.model (u.wordAt u.pc) = false ∧
        decodeBytes u.par.model (wordBytes (u.wordAt u.pc) ++ wordBytes (u.wordAt (u.pc + 2))) =
          .ok (.brun 0x20, [0, 0])) ∧
    (let u := arrive (machine .m1110 0xEFFC 0x0800 [] [(0xEFFC, 0x7018), (0xEFFE, 0x1234)]);
      u.run = .running ∧ pickLevel u = none ∧ u.pc.getLsbD 0 = false ∧ InMemory u .word u.pc ∧
        InMemory u .word (u.pc + 2) ∧
        decodeBytes u.par.model (wordBytes (u.wordAt u.pc) ++ wordBytes (u.wordAt (u.pc + 2))) =
          .ok (.movwLoad .r1 ⟨false, some 0x1234, .r0⟩, [])) := by
  refine ⟨⟨?_, ?_, ?_, ?_, ?_, ?_⟩, ⟨?_, ?_, ?_, ?_, ?_, ?_⟩⟩ <;> rfl

/-- The two stops of the first fetch; a second word at the first absent address, of a class 5 word with XR = R1, of a class C
word and of JKEY. -/
theorem meets_FetchStopsOrAborts :
    (let u := arrive (machine .m1110 0x0101 0x0800 [] []);
      u.run = .running ∧ pickLevel u = none ∧ u.pc.getLsbD 0 = true) ∧
    (let u := arrive (withMemory 0x4000 (machine .m1110 0x8000 0x0800 [] []));
      u.run = .running ∧ pickLevel u = none ∧ u.pc.getLsbD 0 = false ∧ u.site u.pc = .nothing ∧
        BlockInMemory u .abort) ∧
    (let u := arrive (withMemory 0x4000 (machine .m1110 0x7FFE 0x0800 [] [(0x7FFE, 0x5039)]));
      u.run = .running ∧ pickLevel u = none ∧ u.pc.getLsbD 0 = false ∧ InMemory u .word u.pc ∧
        u.site (u.pc + 2) = .nothing ∧ BlockInMemory u .abort ∧
        u.wordAt u.pc = (grCode .loadDec .word .mov .r3 ⟨false, some 0, .r1⟩).first) ∧
    (hasSecondWord .m1111A 0xC312 = true ∧ fieldC 0xC312 ≠ 0 ∧ fieldC 0xC312 ≠ 11) ∧
    (hasSecondWord .m1112A 0xB538 = true ∧ fieldAr 0xB538 ∉ [Reg.r0, .r1]) ∧
    (hasSecondWord .m1112A 0x081A = true ∧ fieldC 0x081A = 0 ∧ fieldOp 0x081A ≠ 6 ∧
      ∀ k, BlockInMemory (scientific.setKey k) .abort) := by
  refine ⟨⟨rfl, rfl, rfl⟩, ⟨rfl, rfl, rfl, rfl, block_of _ _ (by decide)⟩,
    ⟨rfl, rfl, rfl, rfl, rfl, block_of _ _ (by decide), by decide⟩, by decide, by decide, by decide, by decide, by decide,
    fun k => block_of _ _ (by revert k; decide)⟩

/-- R162, R199, R475: a failed fetch of the address word of JUMP or JSBR opens nothing; of a MOV of class 5, not the
accumulator R3, and of a literal MOV not the register R6 that is added to it. -/
theorem test_second_word_absent :
    abortedSecondWord 0x4008 basic = basic ∧ abortedSecondWord 0x407B basic = basic ∧
      (abortedSecondWord 0x5039 basic).reg .r3 = 0xEFFE ∧ (abortedSecondWord 0x482E (basic.setReg .r6 7)).reg .r6 = 7 :=
  ⟨rfl, rfl, rfl, rfl⟩

theorem meets_MemoryReadsBack :
    InMemory basic .word 0xEFFF ∧ InMemory basic .byte 0xEFFF ∧ InMemory basic .word 0 ∧ InMemory basic .byte 0 := by
  unfold InMemory
  decide +kernel

theorem meets_DeviceAccesses :
    0xF000 ≤ (0xF000 : Word).toNat ∧ basic.site (busAddress .word 0xFFFF) = .device ∧
      ({ basic with deviceScript := [.noAnswer] } : State).deviceScript = .noAnswer :: [] ∧
      ({ basic with deviceScript := [.answer 1 []] } : State).deviceScript = .answer 1 [] :: [] := by
  decide

theorem meets_DirectAddresses :
    noAddress ⟨false, none, .r7⟩ = false ∧ noAddress at0200 = false ∧ AutoStep.dec ≠ .none ∧
      ({ basic with par := { basic.par with pcOperand := .next } } : State).par.pcOperand = .next := by decide

/-- A chain of 15 pointers at 0200, 0202, ..., the last one at 021C. -/
def chain (last : Word) : State :=
  machine .m1110 0x0100 0x0800 []
    ((List.range 14).map (fun k => (0x0200 + BitVec.ofNat 16 (2 * k), 0x0203 + BitVec.ofNat 16 (2 * k))) ++
      [(0x021C, last)])

theorem chain_words (last : Word) (h : last ∈ [(0x0300 : Word), 0x0301]) :
    ∀ k < 13, (chain last).wordAt (0x0203 + BitVec.ofNat 16 (2 * k)) = 0x0203 + BitVec.ofNat 16 (2 * (k + 1)) := by
  simp only [List.mem_cons, List.not_mem_nil, or_false] at h
  rcases h with rfl | rfl <;> decide +kernel

theorem chain_pointer (last : Word) (h : last ∈ [(0x0300 : Word), 0x0301]) :
    ∀ k < 14, pointer (chain last) 0x0200 k = 0x0203 + BitVec.ofNat 16 (2 * k) := by
  intro k
  induction k with
  | zero =>
    intro _
    simp only [List.mem_cons, List.not_mem_nil, or_false] at h
    rcases h with rfl | rfl <;> decide +kernel
  | succ k ih =>
    intro hk
    rw [pointer, ih (by omega)]
    exact chain_words last h k (by omega)

/-- The last pointer of a chain of fifteen. -/
theorem chain_last : pointer (chain 0x0300) 0x0200 14 = 0x0300 ∧ pointer (chain 0x0301) 0x0200 14 = 0x0301 := by
  constructor
  · change (chain 0x0300).wordAt (pointer (chain 0x0300) 0x0200 13) = _
    rw [chain_pointer 0x0300 (by decide) 13 (by omega)]
    decide +kernel
  · change (chain 0x0301).wordAt (pointer (chain 0x0301) 0x0200 13) = _
    rw [chain_pointer 0x0301 (by decide) 13 (by omega)]
    decide +kernel

/-- The longest chain that ends, and the shortest. -/
theorem meets_IndirectAddresses :
    developed .none .word ⟨true, some 0x0200, .r0⟩ (chain 0x0300) = 0x0200 ∧ InMemory (chain 0x0300) .word 0x0200 ∧
      (∀ k < 14, (pointer (chain 0x0300) 0x0200 k).getLsbD 0 = true ∧
        InMemory (chain 0x0300) .word (pointer (chain 0x0300) 0x0200 k)) ∧
      (pointer (chain 0x0300) 0x0200 14).getLsbD 0 = false ∧ (pointer basic 0x0200 0).getLsbD 0 = false := by
  refine ⟨rfl, rfl, fun k hk => ?_, by rw [chain_last.1]; rfl, by decide +kernel⟩
  rw [chain_pointer 0x0300 (by decide) k hk]
  unfold InMemory
  revert k
  decide +kernel

/-- Each kind of instruction that develops an indirect address. -/
theorem meets_DevelopsAddress :
    let m : MemOp := ⟨true, some 0x0200, .r1⟩
    DevelopsAddress .m1110 (.movwLoadDec .r1 m) .dec .word m [.r1] 0x0780 ∧ DevelopsAddress .m1110 (.jump m) .none .word m [] 0 ∧
      DevelopsAddress .m1110 (.jsbr .r7 m) .none .word m [] 0 ∧ DevelopsAddress .m1110A (.fclb .r2 m) .none .byte m [.r2] 0 ∧
      DevelopsAddress .m1112A (.mult .r3 m) .none .word m [.r2, .r3] 0x0700 ∧
      DevelopsAddress .m1112A (.dsta .r6 m) .none .word m [] 0x0700 :=
  ⟨.inl ⟨.loadDec, .mov, .r1, rfl, rfl, rfl, rfl⟩, .inr ⟨rfl, .inl ⟨.inl rfl, rfl, rfl, rfl⟩⟩,
    .inr ⟨rfl, .inl ⟨.inr ⟨_, rfl⟩, rfl, rfl, rfl⟩⟩,
    .inr ⟨rfl, .inr (.inl ⟨_, by decide, .inr ⟨rfl, rfl⟩, rfl, rfl⟩)⟩,
    .inr ⟨rfl, .inr (.inr ⟨.mult, .r3, rfl, .inr (by decide), rfl, rfl, rfl, rfl⟩)⟩,
    .inr ⟨rfl, .inr (.inr ⟨.dsta, .r6, rfl, .inl rfl, rfl, rfl, rfl, rfl⟩)⟩⟩

/-- The premises of IndirectLimitTraps but for the instruction, see meets_DevelopsAddress. -/
theorem meets_IndirectLimitTraps :
    developed .none .word ⟨true, some 0x0200, .r0⟩ (chain 0x0301) = 0x0200 ∧
      (∀ k < 15, InMemory (chain 0x0301) .word (readAddress (chain 0x0301) 0x0200 k) ∧
        (pointer (chain 0x0301) 0x0200 k).getLsbD 0 = true) ∧
      BlockInMemory (chain 0x0301) .unimplemented := by
  refine ⟨rfl, fun k hk => ⟨?_, ?_⟩, block_of _ _ (by decide)⟩
  · cases k with
    | zero => rfl
    | succ k =>
      rw [readAddress, chain_pointer 0x0301 (by decide) k (by omega)]
      unfold InMemory
      have h : k < 14 := by omega
      clear hk
      revert k
      decide +kernel
  · by_cases h : k < 14
    · rw [chain_pointer 0x0301 (by decide) k h]
      clear hk
      revert k
      decide +kernel
    · obtain rfl : k = 14 := by omega
      rw [chain_last.2]
      rfl

theorem meets_NoAddressTraps :
    noAddress ⟨true, none, .r0⟩ = true ∧
      (.movwLoad .r1 ⟨true, none, .r0⟩ : Instr) = grInstr .load .word .mov .r1 ⟨true, none, .r0⟩ ∧
      (.mult .r3 ⟨true, none, .r0⟩ : Instr) = fixedInstr .mult .r3 ⟨true, none, .r0⟩ := by decide

/-- A load of 0200 direct, and an autodecrement load at the last present word. -/
theorem meets_LoadsComplete :
    (∃ s1 s2, effectiveAddress (contextOf (grCode .load .word .add .r1 at0200) basic) (autoStep .load) .word at0200
        (startOf (grCode .load .word .add .r1 at0200) basic) = .ok 0x0200 s1 ∧ busRead .word 0x0200 s1 = .ok 0x0300 s2) ∧
    (let m : MemOp := ⟨false, some 2, .r3⟩;
      ∃ s1 s2, effectiveAddress (contextOf (grCode .loadDec .word .mov .r3 m) basic) (autoStep .loadDec) .word m
        (startOf (grCode .loadDec .word .mov .r3 m) basic) = .ok 0xEFFE s1 ∧ busRead .word 0xEFFE s1 = .ok 0x1234 s2) :=
  ⟨⟨_, _, rfl, rfl⟩, ⟨_, _, rfl, rfl⟩⟩

/-- A byte store at the last present byte with a register whose left byte is zero, and a word store. -/
theorem meets_StoresComplete :
    (let m : MemOp := ⟨false, some 1, .r3⟩;
      ∃ s1, effectiveAddress (contextOf (grCode .storeInc .byte .add .r2 m) basic) (autoStep .storeInc) .byte m
        (startOf (grCode .storeInc .byte .add .r2 m) basic) = .ok 0xEFFF s1 ∧ InMemory s1 .byte 0xEFFF ∧
        (accumulator (contextOf (grCode .storeInc .byte .add .r2 m) basic) .inc .r2 .r3 s1).1.extractLsb' 8 8 = 0) ∧
    (∃ s1, effectiveAddress (contextOf (grCode .store .word .cmp .r1 at0200) basic) (autoStep .store) .word at0200
        (startOf (grCode .store .word .cmp .r1 at0200) basic) = .ok 0x0200 s1 ∧ InMemory s1 .word 0x0200) :=
  ⟨⟨_, rfl, rfl, rfl⟩, ⟨_, rfl, rfl⟩⟩

theorem meets_JumpsComplete :
    (∃ s1, effectiveAddress (contextOf (jumpCode .r0 at0200) basic) .none .word at0200
      (startOf (jumpCode .r0 at0200) basic) = .ok 0x0200 s1) ∧
    (∃ s1, effectiveAddress (contextOf (jumpCode .r7 ⟨true, some 0x0200, .r0⟩) basic) .none .word
      ⟨true, some 0x0200, .r0⟩ (startOf (jumpCode .r7 ⟨true, some 0x0200, .r0⟩) basic) = .ok 0x0300 s1) :=
  ⟨⟨_, rfl⟩, ⟨_, rfl⟩⟩

/-- A class 6 byte load, and a direct class 7 word load. -/
theorem meets_AbsentOperandAborts :
    let s := withMemory 0x4000 basic
    let m : MemOp := ⟨false, some 0x8000, .r0⟩
    (∃ s1, effectiveAddress (contextOf (grCode .loadInc .byte .mov .r1 m) s) (autoStep .loadInc) .byte m
      (startOf (grCode .loadInc .byte .mov .r1 m) s) = .ok 0x8000 s1 ∧
      s1.site (busAddress .byte 0x8000) = .nothing ∧ BlockInMemory s1 .abort) ∧
    ∃ s1, effectiveAddress (contextOf (grCode .load .word .cmp .r1 m) s) (autoStep .load) .word m
      (startOf (grCode .load .word .cmp .r1 m) s) = .ok 0x8000 s1 ∧
      s1.site (busAddress .word 0x8000) = .nothing ∧ BlockInMemory s1 .abort := by
  exact ⟨⟨_, rfl, rfl, block_of _ _ (by decide)⟩, ⟨_, rfl, rfl, block_of _ _ (by decide)⟩⟩

/-- An autodecrement byte load through the first absent word, and a word chain whose second read is there. -/
theorem meets_AbsentPointerAborts :
    let s := withMemory 0x4000 basic
    let m : MemOp := ⟨true, some 0x7E01, .r1⟩
    let c := s.putWord 0x0200 0x8001
    (noAddress m = false ∧ readAddress s (developed .dec .byte m s) 0 = 0x8000 ∧
      s.site (busAddress .word 0x8000) = .nothing ∧ BlockInMemory s .abort) ∧
    InMemory c .word (readAddress c 0x0200 0) ∧ (pointer c 0x0200 0).getLsbD 0 = true ∧
      c.site (busAddress .word (readAddress c 0x0200 1)) = .nothing ∧ BlockInMemory c .abort := by
  exact ⟨⟨rfl, by decide, rfl, block_of _ _ (by decide)⟩, rfl, by decide +kernel, by decide +kernel, block_of _ _ (by decide)⟩

/-- ProcessorLoadsComplete, BitOperationsComplete, RegisterMovesComplete and the class B statements. -/
theorem meets_scientific : scientific.par.model.isScientific = true ∧ isPair .r2 = true ∧ isPair .r6 = true := by decide

theorem meets_SingleNormalizesComplete :
    scientific.reg .r2 ≠ 0 ∧ scientific.reg .r4 = 0 ∧ scientific.par.model.isScientific = true := by decide

theorem meets_DoubleNormalizesComplete :
    PairZero .la (pairOf .r4 scientific) ∧ ¬PairZero .la (pairOf .r2 scientific) ∧
      PairZero .ll (pairOf .r4 scientific) ∧ ¬PairZero .rl (pairOf .r2 scientific) := by
  unfold PairZero
  decide

theorem meets_DoubleShiftsComplete : (1 : BitVec 2) ≠ 0 ∧ (3 : BitVec 2) ≠ 0 ∧ isPair (pairReg 3) = true := by decide

theorem meets_HaltAndResume :
    (arrive { basic with run := .halted, inputs := [[.request ⟨.l1, 0⟩]] }).run = .halted ∧
      (∀ events ∈ [[Input.request ⟨.l1, 0⟩]].head?, Input.run ∉ events) ∧
      (∃ events ∈ [[Input.run]].head?, Input.run ∈ events) := by decide

theorem meets_WaitFamilyCompletes :
    (∀ j < 4, (0x7800 : Word).getLsbD (12 + j) = ((0xF800 : Word).getLsbD (12 + j) && !(8 : BitVec 4).getLsbD j)) ∧
      (∀ j < 4, (0xF800 : Word).getLsbD (12 + j) = ((0x0800 : Word).getLsbD (12 + j) || (15 : BitVec 4).getLsbD j)) ∧
      maskBits 0x7800 ≠ 0xF ∧ maskBits 0xF800 = 0xF := by decide

/-- R280: a request already pending when the wait enables its level ends it at once. Level 2: the processor runs on at NEXT,
the request still pending; level 4: it is taken, with P saved. -/
theorem test_wait_ended_at_once :
    (let s := { machine .m1110 0x0100 0xF800 [] [] with pending := [request2] };
      exec (.enbw 2) s = .next (((s.setSt 0xD800).setRun .running).setPc 0x0102)) ∧
    (let s := { machine .m1110 0x0100 0xF800 [] [(0x001E, 0x0400)] with pending := [⟨.l4, 7⟩] };
      after (withBytes [(0x0100, 0x08), (0x0101, 0x48)] s) (fun t =>
        t.pc == 0x0400 && t.wordAt 0x0018 == 7 && t.wordAt 0x001A == 0x7800 && t.wordAt 0x001C == 0x0100 &&
          t.pending == [] && t.run == .running) = true) := by
  constructor
  · rfl
  · decide

/-- Each case of the wait that WaitFamilyCompletes and WaitsEnd tell apart. -/
theorem meets_WaitOutcome :
    let u := { basic with run := .waiting }
    pickLevel u = none ∧ pickLevel { u with pending := [⟨.l4, 1⟩] } = some .l4 ∧
      BlockInMemory { u with pending := [⟨.l4, 1⟩] } (.system .l4) ∧
      pickLevel { u with pending := [request2] } = some .l2 := by
  exact ⟨rfl, rfl, block_of _ _ (by decide), rfl⟩

/-- WaitFamilyCompletes, its first hypothesis. -/
theorem meets_SameBitsBut : SameBitsBut 0xF000 0xF800 0x7800 ∧ SameBitsBut 0xF000 0x0800 0xF800 := by
  unfold SameBitsBut
  decide

/-- StatusStoreCompletes, RegisterBlocksComplete and StatusLoadsComplete: the last absolute address and a relative one. -/
theorem meets_direct_field :
    let s := machine .m1110 0x0100 0x0800 [] []
    let a := directAddress (contextOf (directCode .stsm .absolute 0xFF) s) .absolute 0xFF
    let b := directAddress (contextOf (directCode .regm .relative 0x80) s) .relative 0x80
    a = 0x01FE ∧ b = 0 ∧ InMemory s .word a ∧ InMemory s .word (a + 2) ∧ WordsInMemory s (sevenWords a) ∧
      WordsInMemory s (sevenWords b) := by
  exact ⟨rfl, rfl, rfl, rfl, words_of _ _ (by decide), words_of _ _ (by decide)⟩

theorem meets_ReturnUndoesEntry :
    active basic.st = true ∧ BitVec.ofNat 16 (2 * (0x11 : BitVec 8).toNat) = blockBase 0 .unimplemented + 2 ∧
      ∃ t, takeLevel .unimplemented 0xD000 0x0100 basic = .next t ∧ t.par = basic.par ∧ t.key = basic.key :=
  ⟨rfl, rfl, _, rfl, rfl, rfl⟩

theorem meets_FetchAndClearCompletes :
    basic.par.model = .m1110 ∧
      (∃ s1, effectiveAddress (contextOf (fetchClearCode .byte .r1 at0200) scientific) .none .byte at0200
        (startOf (fetchClearCode .byte .r1 at0200) scientific) = .ok 0x0200 s1 ∧ InMemory s1 .byte 0x0200) ∧
      (let s := machine .m1110B 0x0100 0x0800 [] [];
        ∃ s1, effectiveAddress (contextOf (fetchClearCode .word .r1 at0200) s) .none .word at0200
          (startOf (fetchClearCode .word .r1 at0200) s) = .ok 0x0200 s1 ∧ InMemory s1 .word 0x0200) :=
  ⟨rfl, ⟨_, rfl, rfl⟩, ⟨_, rfl, rfl⟩⟩

theorem meets_KeyStoresComplete :
    scientific.par.model ≠ .m1110 ∧ (machine .m1110A 0 0x0800 [] []).par.model ≠ .m1110 := by decide

/-- The hypotheses that the class B statements share. -/
theorem meets_fixed_point :
    (∃ s1, effectiveAddress (contextOf (fixedCode .dlod .r2 at0200) scientific) .none .word at0200
      (startOf (fixedCode .dlod .r2 at0200) scientific) = .ok 0x0200 s1 ∧ InMemory s1 .word 0x0200 ∧
      WordsInMemory s1 [0x0200, 0x0200 + 2]) ∧
    (let m : MemOp := ⟨false, none, .r1⟩;
      ∃ s1, effectiveAddress (contextOf (fixedCode .mult .r3 m) scientific) .none .word m
        (startOf (fixedCode .mult .r3 m) scientific) = .ok 0x0200 s1 ∧ InMemory s1 .word 0x0200) := by
  exact ⟨⟨_, rfl, rfl, words_of _ _ (by decide)⟩, ⟨_, rfl, rfl⟩⟩

/-- Each case of the division: a result, an open choice at -32768, and each cause of the check. -/
theorem meets_DivideCompletes :
    (pairNumber ⟨1, 7⟩).tdiv 2 = 16387 ∧ (pairNumber ⟨0xFFFE, 0⟩).tdiv 2 = -32768 ∧ (pairNumber ⟨2, 0⟩).tdiv 2 = 32768 ∧
      32769 ≤ ((pairNumber ⟨0xFFFD, 0⟩).tdiv 2).natAbs ∧ pairNumber ⟨0x8000, 0⟩ = -(2 ^ 30) := by decide

/-- Also FieldMovesComplete, DecimalCompareCompletes, DecimalShiftsComplete, FieldCompareCompletes: two fields, and a shift whose count register is large. -/
theorem meets_DecimalsComplete :
    (∀ op ∈ [DecimalOp.zadd, .addd, .subd, .cmpd, .sftr, .movr, .sftl, .movl, .comp],
      DecimalReady op .r1 .r2 twoAndFour decimalMachine) ∧
      DecimalReady .comp .r2 .r1 ⟨0, 0, false, .r7, false, .r7⟩ decimalMachine ∧
      DecimalReady .sftl .r2 .r0 ⟨3, 15, false, .r0, false, .r1⟩ decimalMachine ∧
      (∀ b ∈ writtenBytes .addd .r1 .r2 twoAndFour decimalMachine, b ∉ storageBytes decimalMachine) := by
  refine ⟨fun op h => ?_, ?_, ?_, ?_⟩
  · simp only [List.mem_cons, List.not_mem_nil, or_false] at h
    rcases h with rfl | rfl | rfl | rfl | rfl | rfl | rfl | rfl | rfl <;>
      exact ⟨rfl, rfl, rfl, by decide, by decide, by decide, by decide, words_of _ _ (by decide),
        bytes_of _ _ (by decide), bytes_of _ _ (by decide)⟩
  · exact ⟨rfl, rfl, rfl, by decide, by decide, by decide, by decide, words_of _ _ (by decide),
      bytes_of _ _ (by decide), bytes_of _ _ (by decide)⟩
  · exact ⟨rfl, rfl, rfl, by decide, by decide, by decide, by decide, words_of _ _ (by decide),
      bytes_of _ _ (by decide), bytes_of _ _ (by decide)⟩
  · have h : ((writtenBytes .addd .r1 .r2 twoAndFour decimalMachine).all
        fun b => !(storageBytes decimalMachine).contains b) = true := by decide
    intro b hb
    simpa using List.all_eq_true.mp h b hb

theorem meets_DecimalSumsStored :
    let src := sourceOf .r1 twoAndFour decimalMachine
    let dst := destOf .r2 twoAndFour decimalMachine
    (∀ w ∈ bytesOfField src, w ∉ bytesOfField dst) ∧ FieldValid (fieldContent src (savedState decimalMachine)) ∧
      FieldValid (fieldContent dst (savedState decimalMachine)) ∧
      sourceOf .r1 ⟨1, 1, false, .r0, false, .r0⟩ decimalMachine =
        destOf .r1 ⟨1, 1, false, .r0, false, .r0⟩ decimalMachine := by
  have apart : ((bytesOfField (sourceOf .r1 twoAndFour decimalMachine)).all
      fun w => !(bytesOfField (destOf .r2 twoAndFour decimalMachine)).contains w) = true := by decide
  exact ⟨fun w hw => by simpa using List.all_eq_true.mp apart w hw, (validDecimal_iff _).mp (by decide),
    (validDecimal_iff _).mp (by decide), by decide⟩

/-- R325: the source field 42 6D of these tests is the number -426. -/
theorem test_field_number :
    fieldNumber (fieldContent (sourceOf .r1 twoAndFour decimalMachine) decimalMachine) = -426 := by decide

theorem meets_RequestsTaken :
    let u := arrive { basic with inputs := [[.request request2, .request ⟨.l4, 1⟩]] }
    u.run = .running ∧ pickLevel u = some .l4 ∧ u.pending = [request2, ⟨.l4, 1⟩] ∧
      pickLevel { u with st := 0xF800 } = none ∧
      pickLevel { u with st := 0x8800 } = some .l2 ∧ u.par.priority = [.l4, .l3] ++ .l2 :: [.l1] ∧
      (∀ r ∈ u.pending, (0xF800 : Word).getLsbD (11 + levelNumber r.level) = true) ∧
      u.st.getLsbD (11 + levelNumber request2.level) = false ∧ request2.level ∈ u.par.priority := by decide

theorem meets_WaitsEnd : (arrive { basic with run := .waiting }).run = .waiting := by decide

theorem meets_StatusBitsKept :
    basic.par.entryStatus = .identity ∧ ∃ t, exec (.addwReg .r1 .r2) basic = .next t :=
  ⟨rfl, _, rfl⟩

theorem meets_ControlStateKept :
    (∃ t, exec .halt basic = .next t ∧ basic.run = .running ∧ t.run = .halted) ∧
      ∃ t, exec .waitE basic = .next t ∧ t.run = .waiting :=
  ⟨⟨_, rfl, rfl, rfl⟩, ⟨_, rfl, rfl⟩⟩

theorem meets_FormsRefused :
    isPair .r0 = false ∧ isPair .r7 = false ∧ Reg.r3 ∈ [Reg.r3, .r5, .r7] ∧ FixedOp.dlod ≠ .mult ∧
      noAddress at0200 = false ∧ decimalMachine.par.model.isDecimal = true ∧ twoAndFour.bit7 = false ∧
      twoFields .movr = true := by decide

end Sys2Proof.Tests
end

/-! PROOF. The rows that only some models have (R2, R3): which models those are, and the trap of such an instruction on a
model that lacks it. -/

namespace Sys2Proof

/-! ## The sets of models (R2) -/

theorem Model.hasKey_iff (mdl : Model) : mdl.hasKey = true ↔ mdl ≠ .m1110 := by
  cases mdl <;> simp [Model.hasKey]

theorem Model.isBSeries_iff (mdl : Model) : mdl.isBSeries = true ↔ mdl ∈ [Model.m1110B, .m1111B, .m1112B] := by
  cases mdl <;> simp [Model.isBSeries]

theorem Model.isDecimal_iff (mdl : Model) : mdl.isDecimal = true ↔ mdl ∈ [Model.m1111A, .m1111B] := by
  cases mdl <;> simp [Model.isDecimal]

theorem Model.isScientific_iff (mdl : Model) : mdl.isScientific = true ↔ mdl ∈ [Model.m1112A, .m1112B] := by
  cases mdl <;> simp [Model.isScientific]

end Sys2Proof

namespace Sys2Proof.Machine

/-! ## The shared operations of the rows that only some models have

Each runs under `executeOn` with the set of models that has its rows, so that `executeOn_trapped` speaks of it. -/

section
variable {s : State} (hb : BlockInMemory s .unimplemented)
include hb

section
variable (h : s.par.model.isScientific = false)
include h

theorem normalizeSingle_trapped {op : NormOp} {ar xr : Reg} :
    ∃ t, normalizeSingle op ar xr s = .next t ∧ Trapped (normalizeCode false op ar xr).first s s t :=
  executeOn_trapped h hb

theorem normalizeDouble_trapped {op : NormOp} {ar xr : Reg} :
    ∃ t, normalizeDouble op ar xr s = .next t ∧ Trapped (normalizeCode true op ar xr).first s s t :=
  executeOn_trapped h hb

theorem doubleShiftX_trapped {op : ShiftOp} {ar xr : Reg} :
    ∃ t, doubleShiftX op ar xr s = .next t ∧ Trapped (shiftXCode true op ar xr).first s s t :=
  executeOn_trapped h hb

theorem doubleShiftK_trapped {op : ShiftOp} {pair : BitVec 2} {k : BitVec 5} :
    ∃ t, doubleShiftK op pair k s = .next t ∧ Trapped (doubleShiftKCode op pair k).first s s t :=
  executeOn_trapped h hb

theorem jumpKey_trapped {k : BitVec 2} {target : Word} :
    ∃ t, jumpKey k target s = .next t ∧ Trapped (keyCode k (some target)).first s s t :=
  executeOn_trapped h hb

theorem loadCpuNumber_trapped {xr : Reg} :
    ∃ t, loadCpuNumber xr s = .next t ∧ Trapped (processorCode 2 xr).first s s t :=
  executeOn_trapped h hb

theorem loadKey_trapped {xr : Reg} :
    ∃ t, loadKey xr s = .next t ∧ Trapped (processorCode 3 xr).first s s t :=
  executeOn_trapped h hb

theorem bitX_trapped {op : BitOp} {ar xr : Reg} :
    ∃ t, bitX op ar xr s = .next t ∧ Trapped (bitXCode op ar xr).first s s t :=
  executeOn_trapped h hb

theorem bitK_trapped {op : BitOp} {ar : Reg} {k : BitVec 4} :
    ∃ t, bitK op ar k s = .next t ∧ Trapped (bitKCode op ar k).first s s t :=
  executeOn_trapped h hb

theorem bitM_trapped {op : BitOp} {ar xr : Reg} {mask : Word} :
    ∃ t, bitM op ar xr mask s = .next t ∧ Trapped (bitMCode op ar xr mask).first s s t :=
  executeOn_trapped h hb

theorem moveRegister_trapped {op : MoveOp} {ar xr : Reg} :
    ∃ t, moveRegister op ar xr s = .next t ∧ Trapped (moveCode op ar xr).first s s t :=
  executeOn_trapped h hb

theorem fixedPoint_trapped {op : FixedOp} {ok : Reg → Bool} {ar : Reg} {m : MemOp} {body : Word → State → Res Unit} :
    ∃ t, fixedPoint op ok ar m body s = .next t ∧ Trapped (fixedCode op ar m).first s s t :=
  executeOn_trapped h hb

end

theorem fetchAndClear_trapped (h : s.par.model.hasKey = false) {wd : Width} {ar : Reg} {m : MemOp} :
    ∃ t, fetchAndClear wd ar m s = .next t ∧ Trapped (fetchClearCode wd ar m).first s s t :=
  executeOn_trapped h hb

theorem storeKey_trapped (h : s.par.model.hasKey = false) {k : BitVec 2} :
    ∃ t, storeKey k s = .next t ∧ Trapped (keyCode k none).first s s t :=
  executeOn_trapped h hb

theorem decimal_trapped (h : s.par.model.isDecimal = false) {op : DecimalOp} {two : Bool}
    {written : Field → Field → List Word} {reg1 reg2 : Reg} {o : DecOperands}
    {body : Field → Field → State → Res Unit} :
    ∃ t, decimal op two written reg1 reg2 o body s = .next t ∧ Trapped (decimalCode op reg1 reg2 o).first s s t :=
  executeOn_trapped h hb

/-- A row that only traps does so on every model (R121, R122). -/
theorem trapRow_trapped {w : Word} : ∃ t, trapRow w s = .next t ∧ Trapped w s s t :=
  execute_trapped (code := ⟨w, none⟩) rfl hb

/-! ## An instruction that the model lacks -/

/-- The trap of an instruction that the model lacks leaves all but the entry as it was (R3, R462). By the columns of
`implementedOn`: for a row of the scientific, key or decimal set `h` says that the model lacks the set, and the rows that
every model has are excluded. -/
theorem exec_trapped_of_not_implementedOn {i : Instr} (h : implementedOn s.par.model i = false) :
    ∃ t, exec i s = .next t ∧ Trapped (code i).first s s t := by
  cases i with
  | trap => exact trapRow_trapped hb
  | slan | slln | sran | srln => exact normalizeSingle_trapped hb h
  | dlan | dlln | dran | drln => exact normalizeDouble_trapped hb h
  | dlaoX | dlllX | dlloX | dllcX | draoX | drllX | drloX | drlcX => exact doubleShiftX_trapped hb h
  | dlaoK | dlllK | dlloK | dllcK | draoK | drllK | drloK | drlcK => exact doubleShiftK_trapped hb h
  | jkey => exact jumpKey_trapped hb h
  | lcpu => exact loadCpuNumber_trapped hb h
  | lkey => exact loadKey_trapped hb h
  | rbitX | sbitX | cbitX | ibitX | tsbtX | tbitX => exact bitX_trapped hb h
  | rbitK | sbitK | cbitK | ibitK | tsbtK | tbitK => exact bitK_trapped hb h
  | rbitM | sbitM | cbitM | ibitM | tsbtM | tbitM => exact bitM_trapped hb h
  | negt | cplm | movp | movn => exact moveRegister_trapped hb h
  | dsta | dsub | dadd | divd | dlod | mlta | mult => exact fixedPoint_trapped hb h
  | fclw | fclb => exact fetchAndClear_trapped hb h
  | skey => exact storeKey_trapped hb h
  | zadd | addd | subd | cmpd | sftr | movr | sftl | movl | comp =>
    simp only [exec, execZadd, zeroAndAdd, execAddd, addDecimal, execSubd, subtractDecimal, execCmpd, compareDecimal,
      execSftr, shiftDecimalRight, execSftl, shiftDecimalLeft, decimalShift, execMovr, moveRight, execMovl, moveLeft,
      execComp, compareFields]
    exact decimal_trapped hb h
  | _ => cases h

end

/-- Settles O8: an instruction that the model lacks traps with nothing else changed, and the sets of models are those of
R2. -/
theorem unimplementedOnModelTraps : Obligations.UnimplementedOnModelTraps := fun _ _ =>
  ⟨fun h hb => exec_trapped_of_not_implementedOn hb h, fun mdl =>
    ⟨mdl.hasKey_iff, mdl.isBSeries_iff, mdl.isDecimal_iff, mdl.isScientific_iff⟩⟩

end Sys2Proof.Machine

/-! PROOF. What every instruction keeps: one relation between the state before a part of an instruction and any state that it
can leave, one lemma per shared operation, and one lemma that says how each instruction can end. -/

namespace Sys2Proof.Machine

/-! ## The status bits outside a mask -/

theorem sameBitsBut_iff {mask st st' : Word} :
    SameBitsBut mask st st' ↔ ∀ i < 16, mask.getLsbD i = false → st'.getLsbD i = st.getLsbD i := by
  constructor
  · intro h i hi hm
    have := congrArg (BitVec.getLsbD · i) h
    simpa only [BitVec.getLsbD_and, BitVec.getLsbD_not, hi, hm, decide_true, Bool.not_false, Bool.and_true] using this
  · intro h
    apply BitVec.eq_of_getLsbD_eq
    intro i hi
    rw [BitVec.getLsbD_and, BitVec.getLsbD_and, BitVec.getLsbD_not]
    cases hm : mask.getLsbD i
    · rw [h i hi hm]
    · simp only [Bool.not_true, Bool.and_false]

theorem SameBitsBut.trans {mask st st' st'' : Word} (h : SameBitsBut mask st st') (g : SameBitsBut mask st' st'') :
    SameBitsBut mask st st'' := Eq.trans g h

/-- A bit outside `mask'` is outside `mask`. -/
theorem getLsbD_of_subset {mask mask' : Word} (hm : mask &&& ~~~mask' = 0) {i : Nat} (hi : i < 16)
    (h : mask'.getLsbD i = false) : mask.getLsbD i = false := by
  have := congrArg (BitVec.getLsbD · i) hm
  simpa only [BitVec.getLsbD_and, BitVec.getLsbD_not, hi, h, decide_true, Bool.not_false, Bool.and_true,
    BitVec.ofNat_eq_ofNat, BitVec.getLsbD_zero] using this

theorem SameBitsBut.mono {mask mask' st st' : Word} (h : SameBitsBut mask st st') (hm : mask &&& ~~~mask' = 0) :
    SameBitsBut mask' st st' :=
  sameBitsBut_iff.mpr fun i hi h' => sameBitsBut_iff.mp h i hi (getLsbD_of_subset hm hi h')

/-- Bits apart from the mask are the same. -/
theorem SameBitsBut.and_eq {mask bits st st' : Word} (h : SameBitsBut mask st st') (hm : mask &&& bits = 0) :
    st' &&& bits = st &&& bits := by
  have := h.mono (mask' := ~~~bits) (by rwa [BitVec.not_not])
  unfold SameBitsBut at this
  rwa [BitVec.not_not] at this

theorem SameBitsBut.active {mask st st' : Word} (h : SameBitsBut mask st st') (hA : mask.getLsbD 11 = false) :
    active st' = active st := sameBitsBut_iff.mp h 11 (by decide) hA

theorem putFlag_same (st : Word) (i : Indicator) (b : Bool) : SameBitsBut i.mask st (putFlag st i b) := by
  refine sameBitsBut_iff.mpr fun j hj hm => ?_
  cases b
  · simp only [putFlag, Bool.false_eq_true, if_false, BitVec.getLsbD_and, BitVec.getLsbD_not, hj, hm, decide_true,
      Bool.not_false, Bool.and_true]
  · simp only [putFlag, if_true, BitVec.getLsbD_or, hm, Bool.or_false]

theorem setNZO_same (st r : Word) : SameBitsBut 0x0700 st (setNZO st r) :=
  (((putFlag_same ..).mono (by decide)).trans ((putFlag_same ..).mono (by decide))).trans
    ((putFlag_same ..).mono (by decide))

theorem setNZO2_same (st h l : Word) : SameBitsBut 0x0700 st (setNZO2 st h l) :=
  (((putFlag_same ..).mono (by decide)).trans ((putFlag_same ..).mono (by decide))).trans
    ((putFlag_same ..).mono (by decide))

theorem setCompare_same (st : Word) (eq gt : Bool) : SameBitsBut 0x0003 st (setCompare st eq gt) :=
  ((putFlag_same ..).mono (by decide)).trans ((putFlag_same ..).mono (by decide))

theorem stickyOv_same (st : Word) (ov : Bool) : SameBitsBut 0x0004 st (stickyOv st ov) := by
  cases ov
  · rfl
  · exact putFlag_same st .ov true

theorem freeStatus_bits (s : State) (mask : Word) : SameBitsBut mask s.st (s.freeStatus mask).st :=
  (freeStatus_same mask s).2.1

/-- A general operation writes only the indicators that it affects. -/
theorem aluStatus_same (op : GrOp) (src tgt st : Word) : SameBitsBut (affected op) st (aluStatus op src tgt st) := by
  have sum : ∀ cy ov r, SameBitsBut 0x070C st (setNZO (stickyOv (putFlag st .cy cy) ov) r) := fun cy ov r =>
    (((putFlag_same ..).mono (by decide)).trans ((stickyOv_same ..).mono (by decide))).trans
      ((setNZO_same ..).mono (by decide))
  cases op with
  | add | sub => exact sum _ _ _
  | cmp => exact setCompare_same ..
  | mov | and | ior | eor | tst => exact setNZO_same ..

/-- The indicators that results write: NG, ZE, OD, CY, OV, GT, EQ (R43). -/
def resultMask : Word := 0x070F

theorem affected_result (op : GrOp) : affected op &&& ~~~resultMask = 0 := by cases op <;> decide

theorem fixedIndicators_result (op : FixedOp) (ar : Reg) : fixedIndicators op ar &&& ~~~resultMask = 0 := by
  cases op <;> cases ar <;> decide

theorem decimalIndicators_result (op : DecimalOp) : decimalIndicators op &&& ~~~resultMask = 0 := by
  cases op <;> decide

/-! ## What a part of an instruction keeps -/

/-- Requests, parameters, inputs, key and run state are kept, of the status all bits outside a mask, bit A where it was set,
and the soundness of memory. Registers, devices and free values are not spoken of. -/
structure Kept (mask : Word) (s t : State) : Prop where
  inputs : SameInputs s t
  key : t.key = s.key
  run : t.run = s.run
  status : SameBitsBut mask s.st t.st
  bitA : active s.st = true → active t.st = true
  memory : memorySound s = true → memorySound t = true

namespace Kept

variable {mask mask' : Word} {s t u : State}

theorem refl (mask : Word) (s : State) : Kept mask s s := ⟨⟨rfl, rfl, rfl⟩, rfl, rfl, rfl, id, id⟩

theorem trans (h : Kept mask s t) (g : Kept mask t u) : Kept mask s u :=
  ⟨⟨g.inputs.1.trans h.inputs.1, g.inputs.2.1.trans h.inputs.2.1, g.inputs.2.2.trans h.inputs.2.2⟩, g.key.trans h.key,
    g.run.trans h.run, h.status.trans g.status, g.bitA ∘ h.bitA, g.memory ∘ h.memory⟩

theorem mono (h : Kept mask s t) (hm : mask &&& ~~~mask' = 0) : Kept mask' s t :=
  { h with status := h.status.mono hm }

theorem core (h : Kept mask s t) (g : SameCore t u) (hm : memorySound t = true → memorySound u = true) :
    Kept mask s u := by
  obtain ⟨-, hst, hk, hr, hp, hpar, hi, -⟩ := g
  exact h.trans ⟨⟨hp, hpar, hi⟩, hk, hr, by rw [SameBitsBut, hst], fun ha => by rwa [hst], hm⟩

theorem setReg (h : Kept mask s t) (r : Reg) (v : Word) : Kept mask s (t.setReg r v) := { h with }

theorem setPc (h : Kept mask s t) (v : Word) : Kept mask s (t.setPc v) := { h with }

theorem countFree (h : Kept mask s t) : Kept mask s t.countFree := { h with }

theorem freeReg (h : Kept mask s t) (r : Reg) : Kept mask s (t.freeReg r) := { h with }

theorem freeRegs (rs : List Reg) : ∀ {t : State}, Kept mask s t → Kept mask s (t.freeRegs rs) := by
  induction rs with
  | nil => exact id
  | cons r rs ih => exact fun h => ih (h.freeReg r)

theorem setSt (h : Kept mask s t) {v : Word} (hv : SameBitsBut mask' t.st v) (hm : mask' &&& ~~~mask = 0)
    (hA : mask'.getLsbD 11 = false) : Kept mask s (t.setSt v) :=
  { h with status := h.status.trans (hv.mono hm), bitA := fun ha => (hv.active hA).trans (h.bitA ha) }

theorem freeStatus (h : Kept mask s t) (hm : mask' &&& ~~~mask = 0) (hA : mask'.getLsbD 11 = false) :
    Kept mask s (t.freeStatus mask') :=
  { h with
    status := h.status.trans ((freeStatus_bits t mask').mono hm)
    bitA := fun ha => ((freeStatus_bits t mask').active hA).trans (h.bitA ha) }

theorem freeBytes (h : Kept mask s t) (as : List Word) : Kept mask s (t.freeBytes as) := by
  obtain ⟨-, hst, -, ⟨hi, hk, hr⟩, -⟩ := freeBytes_same as t
  refine h.trans ⟨hi, hk, hr, hst.mono (by simp), fun ha => ?_, memorySound_freeBytes as⟩
  exact (hst.active (by decide)).trans ha

theorem dataReg (h : Kept mask s t) (c : Ctx) (r : Reg) : Kept mask s (dataReg c r t).2 := by
  rcases dataReg_state c r t with e | e <;> rw [e]
  · exact h
  · exact h.countFree

theorem stepIndex (h : Kept mask s t) (c : Ctx) (xr : Reg) (amount : Word) : Kept mask s (stepIndex c xr amount t) :=
  (h.dataReg c xr).setReg _ _

end Kept

/-- In however a part of an instruction ends, the state that it leaves has kept all but a mask of the status of `s`. -/
def Res.Keeps {α : Type} (mask : Word) (s : State) : Res α → Prop
  | .ok _ t | .trap _ t | .abort _ _ t => Kept mask s t
  | .refuse _ => True

namespace Res.Keeps

variable {α β : Type} {mask : Word} {s t : State}

theorem bind {x : Res α} {f : α → State → Res β} (hx : x.Keeps mask s)
    (hf : ∀ a t, Kept mask s t → (f a t).Keeps mask s) : (x.bind f).Keeps mask s := by
  cases x with
  | ok a t => exact hf a t hx
  | trap p t => exact hx
  | abort a wd t => exact hx
  | refuse r => exact hx

theorem onAbort {x : Res α} {f : State → State} (hx : x.Keeps mask s) (hf : ∀ t, Kept mask s t → Kept mask s (f t)) :
    (x.onAbort f).Keeps mask s := by
  cases x with
  | ok a t => exact hx
  | trap p t => exact hx
  | abort a wd t => exact hf t hx
  | refuse r => exact hx

theorem busRead (h : Kept mask s t) (wd : Width) (a : Word) : (busRead wd a t).Keeps mask s := by
  cases e : Machine.busRead wd a t with
  | ok v u => exact h.core (busRead_keeps e).1 (busRead_keeps e).2
  | abort b wd' u => obtain ⟨-, -, hc, hm⟩ := busRead_abort e; exact h.core hc hm
  | trap p u => exact absurd e (busRead_no_trap _ _ _ _ _)
  | refuse r => trivial

theorem busWrite (h : Kept mask s t) (wd : Width) (a v : Word) : (busWrite wd a v t).Keeps mask s := by
  cases e : Machine.busWrite wd a v t with
  | ok _ u => exact h.core (busWrite_keeps e).1 (busWrite_keeps e).2
  | abort b wd' u => obtain ⟨-, -, hc, hm⟩ := busWrite_abort e; exact h.core hc hm
  | trap p u => exact absurd e (busWrite_no_trap _ _ _ _ _ _)
  | refuse r => trivial

theorem eachOf {f : α → State → Res Unit} (hf : ∀ a t, Kept mask s t → (f a t).Keeps mask s) (xs : List α) :
    ∀ {t : State}, Kept mask s t → (eachOf f xs t).Keeps mask s := by
  induction xs with
  | nil => exact id
  | cons x xs ih => exact fun h => (hf x _ h).bind fun _ _ h => ih h

theorem collect {f : α → State → Res β} (hf : ∀ a t, Kept mask s t → (f a t).Keeps mask s) (xs : List α) :
    ∀ {t : State}, Kept mask s t → (collect f xs t).Keeps mask s := by
  induction xs with
  | nil => exact id
  | cons x xs ih => exact fun h => (hf x _ h).bind fun _ _ h => (ih h).bind fun _ _ h => h

theorem indirectChain (n : Nat) : ∀ {a : Word} {t : State}, Kept mask s t → (indirectChain n a t).Keeps mask s := by
  induction n with
  | zero => intro a t h; unfold Machine.indirectChain; split <;> exact h
  | succ n ih =>
    intro a t h
    unfold Machine.indirectChain
    split
    · exact (busRead h ..).bind fun _ _ h => ih h
    · exact h

theorem resolveIndirect (h : Kept mask s t) (wd : Width) (ind : Bool) (d : Word) :
    (resolveIndirect wd ind d t).Keeps mask s := by
  unfold Machine.resolveIndirect
  split
  · refine (busRead h ..).bind fun _ _ h => ?_
    cases wd
    · exact indirectChain _ h
    · exact h
  · exact h

theorem effectiveAddress (h : Kept mask s t) (c : Ctx) (auto : AutoStep) (wd : Width) (m : MemOp) :
    (effectiveAddress c auto wd m t).Keeps mask s := by
  unfold Machine.effectiveAddress
  split
  · exact h
  · refine (resolveIndirect ?_ ..).bind fun _ _ h => ?_ <;> cases auto
    all_goals first | exact h | exact h.stepIndex ..

end Res.Keeps

/-! ## How an instruction ends -/

/-- What an entry keeps of the state `s` it is taken from, whatever answers at its block. -/
structure Entered (s t : State) : Prop where
  inputs : SameInputs s t
  key : t.key = s.key
  run : t.run = .running
  status : ∃ l, t.st = entryStatus s.par l s.st
  memory : memorySound s = true → memorySound t = true

theorem takeLevel_entered {l : Level} {info ret : Word} {s t : State} (h : takeLevel l info ret s = .next t) :
    Entered s t := by
  have h := takeLevel_next h
  unfold entrySequence at h
  obtain ⟨_, u, h1, h⟩ := Res.bind_eq_ok.mp h
  obtain ⟨_, v, h2, h⟩ := Res.bind_eq_ok.mp h
  obtain ⟨_, w, h3, h⟩ := Res.bind_eq_ok.mp h
  obtain ⟨a, x, h4, h⟩ := Res.bind_eq_ok.mp h
  cases h
  have k : Kept 0 s w :=
    (((Kept.refl 0 s).core (busWrite_keeps h1).1 (busWrite_keeps h1).2).core (busWrite_keeps h2).1
      (busWrite_keeps h2).2).core (busWrite_keeps h3).1 (busWrite_keeps h3).2
  have hst : w.st = s.st := by
    have := (busWrite_keeps h1).1.2.1; have := (busWrite_keeps h2).1.2.1; have := (busWrite_keeps h3).1.2.1
    simp_all
  obtain ⟨⟨-, rst, rkey, -, rpending, rpar, rinputs, -⟩, rmem⟩ := busRead_keeps h4
  refine ⟨⟨rpending.trans k.inputs.1, rpar.trans k.inputs.2.1, rinputs.trans k.inputs.2.2⟩, rkey.trans k.key, rfl,
    ⟨l, ?_⟩, rmem ∘ k.memory⟩
  show x.st = _
  rw [rst, State.setSt_st, k.inputs.2.1, hst]

theorem Entered.of_countFree {s u t : State} (hu : u = s ∨ u = s.countFree) (h : Entered u t) : Entered s t := by
  rcases hu with rfl | rfl
  · exact h
  · exact ⟨h.inputs, h.key, h.run, h.status, h.memory⟩

theorem raiseUnimplemented_entered {p w : Word} {saved : Option Word} {s t : State}
    (h : raiseUnimplemented p w saved s = .next t) : Entered s t := by
  cases saved with
  | some ret => exact takeLevel_entered h
  | none => exact (takeLevel_entered h).of_countFree (trapSavedPc_state ..)

theorem abortInfo_state (a : Word) (wd : Width) (s : State) :
    (abortInfo a wd s).2 = s ∨ (abortInfo a wd s).2 = s.countFree := by
  cases wd
  · exact .inr rfl
  · exact .inl rfl

theorem raiseAbort_entered {p a : Word} {w : Option Word} {wd : Width} {s t : State}
    (h : raiseAbort p w a wd s = .next t) : Entered s t :=
  ((takeLevel_entered h).of_countFree (abortInfo_state ..)).of_countFree (trapSavedPc_state ..)

/-- An instruction completes, or is ended by an entry; what it did before kept all but a mask of the status of `s`. -/
def Ended (mask : Word) (s t : State) : Prop := Kept mask s t ∨ ∃ u, Kept mask s u ∧ Entered u t

namespace Ended

variable {mask mask' : Word} {s t : State}

theorem mono (h : Ended mask s t) (hm : mask &&& ~~~mask' = 0) : Ended mask' s t :=
  h.imp (·.mono hm) fun ⟨u, hk, he⟩ => ⟨u, hk.mono hm, he⟩

theorem inputs (h : Ended mask s t) : SameInputs s t := by
  rcases h with hk | ⟨u, hk, he⟩
  · exact hk.inputs
  · obtain ⟨p1, p2, p3⟩ := hk.inputs
    obtain ⟨e1, e2, e3⟩ := he.inputs
    exact ⟨e1.trans p1, e2.trans p2, e3.trans p3⟩

theorem key (h : Ended mask s t) : t.key = s.key := by
  rcases h with hk | ⟨u, hk, he⟩
  · exact hk.key
  · exact he.key.trans hk.key

theorem run (h : Ended mask s t) : t.run = s.run ∨ t.run = .running := by
  rcases h with hk | ⟨u, -, he⟩
  · exact .inl hk.run
  · exact .inr he.run

theorem memory (h : Ended mask s t) (hs : memorySound s = true) : memorySound t = true := by
  rcases h with hk | ⟨u, hk, he⟩
  · exact hk.memory hs
  · exact he.memory (hk.memory hs)

end Ended

theorem execute_ended {mask : Word} {code : Code} {body : Ctx → State → Res Unit} {s t : State}
    (h : execute code body s = .next t) (hb : ∀ u, Kept mask s u → (body (contextOf code s) u).Keeps mask s) :
    Ended mask s t := by
  have k : (body (contextOf code s) (startOf code s)).Keeps mask s := hb _ ((Kept.refl mask s).setPc _)
  rcases execute_next h with e | ⟨p, u, e, ht⟩ | ⟨a, wd, u, e, ht⟩ <;> rw [e] at k
  · exact .inl k
  · exact .inr ⟨u, k, raiseUnimplemented_entered ht⟩
  · exact .inr ⟨u, k, raiseAbort_entered ht⟩

theorem executeOn_ended {mask : Word} {ok : Model → Bool} {code : Code} {body : Ctx → State → Res Unit} {s t : State}
    (h : executeOn ok code body s = .next t)
    (hb : ∀ u, Kept mask s u → (body (contextOf code s) u).Keeps mask s) : Ended mask s t := by
  refine execute_ended h fun u hu => ?_
  split
  · exact hb u hu
  · exact hu

end Sys2Proof.Machine

namespace Sys2Proof.Machine

/-! ## The families: what each body keeps -/

section
variable {mask mask' : Word} {s t u : State}

/-- What a part leaves the same, status bits of a mask and memory aside, it keeps. -/
theorem Kept.sameBut {regs : List Reg} {bytes : List Word} (h : Kept mask s t) (g : SameBut regs mask' bytes t u)
    (hm : mask' &&& ~~~mask = 0) (hA : mask'.getLsbD 11 = false) (hmem : memorySound t = true → memorySound u = true) :
    Kept mask s u := by
  obtain ⟨-, hst, -, ⟨hi, hk, hr⟩, -⟩ := g
  exact h.trans ⟨hi, hk, hr, hst.mono hm, fun ha => (hst.active hA).trans ha, hmem⟩

/-! ### General registers -/

theorem Kept.accumulator (h : Kept mask s t) (c : Ctx) (auto : AutoStep) (ar xr : Reg) :
    Kept mask s (accumulator c auto ar xr t).2 := by
  unfold Machine.accumulator
  split
  · exact h
  · exact h.dataReg c ar

theorem Kept.targetOperand (h : Kept mask s t) (c : Ctx) (op : GrOp) (auto : AutoStep) (ar xr : Reg) :
    Kept mask s (targetOperand c op auto ar xr t).2 := by
  unfold Machine.targetOperand
  split
  · exact h.accumulator c auto ar xr
  · exact h

/-- The status bits that a class with an automatic step may write besides the result's: LP. -/
def steppingMask (auto : AutoStep) : Word := resultMask ||| loopBit auto

theorem affected_stepping (op : GrOp) (auto : AutoStep) : affected op &&& ~~~steppingMask auto = 0 := by
  cases op <;> cases auto <;> decide

section
variable {auto : AutoStep} (h : Kept (steppingMask auto) s t)
include h

theorem Kept.setAluStatus (op : GrOp) (src tgt : Word) :
    Kept (steppingMask auto) s (t.setSt (aluStatus op src tgt t.st)) :=
  h.setSt (aluStatus_same op src tgt t.st) (affected_stepping op auto) (by cases op <;> decide)

theorem Kept.applyToReg (op : GrOp) (ar : Reg) (src tgt : Word) :
    Kept (steppingMask auto) s (applyToReg op ar src tgt t) := by
  unfold Machine.applyToReg
  dsimp only
  split
  · exact (h.setAluStatus op src tgt).setReg ..
  · exact h.setAluStatus op src tgt

theorem Kept.memoryStatus (op : GrOp) (wd : Width) (src tgt : Word) :
    Kept (steppingMask auto) s (memoryStatus op wd src tgt t) := by
  unfold Machine.memoryStatus
  split
  · exact h.setAluStatus op src tgt
  · split
    · exact h.setAluStatus op src tgt
    · rw [opIndicators_eq]
      exact h.freeStatus (affected_stepping op auto) (by cases op <;> decide)

theorem Kept.loopComplete (overwritten stepped : Bool) :
    Kept (steppingMask auto) s (loopComplete auto overwritten stepped t) := by
  cases auto with
  | none => exact h
  | inc | dec =>
    unfold Machine.loopComplete
    dsimp only
    split
    · exact h.freeStatus (by decide) (by decide)
    · exact h.setSt (putFlag_same t.st .lp stepped) (by decide) (by decide)

theorem Kept.abortedOperation (op : GrOp) (xr : Reg) : Kept (steppingMask auto) s (abortedOperation op auto xr t) :=
  h.sameBut (abortedOperation_same op auto xr t) (by cases op <;> cases auto <;> decide)
    (by cases op <;> cases auto <;> decide) fun hm => memorySound_of_mem hm (by cases auto <;> rfl)

theorem Kept.abortedResult (op : GrOp) (ar : Reg) : Kept (steppingMask auto) s (abortedResult op ar t) := by
  unfold Machine.abortedResult
  split
  · exact h.freeReg ar
  · exact h

end

theorem grLoad_ended {cls : GrClass} {wd : Width} {op : GrOp} {ar : Reg} {m : MemOp}
    (h : grLoad cls wd op ar m s = .next t) : Ended (steppingMask (autoStep cls)) s t := by
  refine execute_ended h fun u hu => ?_
  refine .bind (.onAbort (.effectiveAddress hu ..) fun _ h => h.abortedOperation ..) fun a _ h => ?_
  refine .bind (.onAbort (.busRead h ..) fun _ h => ?_) fun src _ h => ?_
  · unfold abortedOperandRead
    split
    · exact h
    · exact (h.abortedOperation ..).abortedResult ..
  · exact ((h.targetOperand ..).applyToReg ..).loopComplete ..

theorem Res.Keeps.memoryTransfers (h : Kept mask s t) (op : GrOp) (wd : Width) (a src : Word) :
    (memoryTransfers op wd a src t).Keeps mask s := by
  unfold Machine.memoryTransfers
  split
  · refine .bind (.busRead h ..) fun _ _ h => ?_
    split
    · exact .bind (.busWrite h ..) fun _ _ h => h
    · exact h
  · exact .bind (.busWrite h ..) fun _ _ h => h

theorem grStore_ended {cls : GrClass} {wd : Width} {op : GrOp} {ar : Reg} {m : MemOp}
    (h : grStore cls wd op ar m s = .next t) : Ended (steppingMask (autoStep cls)) s t := by
  refine execute_ended h fun u hu => ?_
  refine .onAbort (.bind (.effectiveAddress hu ..) fun a _ h => ?_) fun _ h => h.abortedOperation ..
  exact .bind (.memoryTransfers (h.accumulator ..) ..) fun _ _ h => (h.memoryStatus ..).loopComplete ..

theorem jumpTo_ended {m : MemOp} (h : jumpTo m s = .next t) : Ended 0 s t :=
  execute_ended h fun _ hu => .bind (.effectiveAddress hu ..) fun _ _ h => h.setPc _

theorem jumpLink_ended {ar : Reg} {m : MemOp} (h : jumpLink ar m s = .next t) : Ended 0 s t :=
  execute_ended h fun _ hu => .bind (.effectiveAddress hu ..) fun _ _ h => (h.setReg ..).setPc _

theorem accReg_ended {op : GrOp} {ar xr : Reg} (h : accReg op ar xr s = .next t) : Ended resultMask s t :=
  execute_ended h fun _ hu => Kept.applyToReg (auto := .none) ((hu.dataReg ..).targetOperand ..) ..

theorem accLit_ended {op : GrOp} {ar xr : Reg} {lit : Word} (h : accLit op ar xr lit s = .next t) :
    Ended resultMask s t :=
  execute_ended h fun _ hu => Kept.applyToReg (auto := .none) (hu.targetOperand ..) ..

theorem accImm_ended {op : GrOp} {ar : Reg} {k : BitVec 4} (h : accImm op ar k s = .next t) : Ended resultMask s t :=
  execute_ended h fun _ hu => Kept.applyToReg (auto := .none) (hu.targetOperand ..) ..

/-! ### Branches -/

theorem noOperation_ended {d : BitVec 8} (h : noOperation d s = .next t) : Ended 0 s t :=
  execute_ended h fun _ hu => hu

theorem branchAlways_ended {d : BitVec 8} (h : branchAlways d s = .next t) : Ended 0 s t :=
  execute_ended h fun _ hu => hu.setPc _

theorem branchOn_ended {sense : Bool} {cond : Cond} {d : BitVec 8} (h : branchOn sense cond d s = .next t) :
    Ended 0 s t := by
  refine execute_ended h fun u hu => ?_
  show Kept 0 s (if _ then _ else _)
  split
  · exact hu.setPc _
  · exact hu

/-! ### Shifts and normalizes -/

theorem shiftStatus_same (op : ShiftOp) (x : Shifting) (st : Word) : SameBitsBut resultMask st (shiftStatus op x st) :=
  (((putFlag_same ..).mono (by decide)).trans ((putFlag_same ..).mono (by decide))).trans
    ((setNZO_same ..).mono (by decide))

theorem Kept.shiftBy (h : Kept resultMask s t) (c : Ctx) (op : ShiftOp) (ar : Reg) (n : Nat) :
    Kept resultMask s (shiftBy c op ar n t) :=
  ((h.dataReg c ar).setSt (shiftStatus_same ..) (by decide) (by decide)).setReg ..

theorem shiftX_ended {op : ShiftOp} {ar xr : Reg} (h : shiftX op ar xr s = .next t) : Ended resultMask s t :=
  execute_ended h fun _ hu => (hu.dataReg ..).shiftBy ..

theorem shiftK_ended {op : ShiftOp} {ar : Reg} {k : BitVec 4} (h : shiftK op ar k s = .next t) : Ended resultMask s t :=
  execute_ended h fun _ hu => hu.shiftBy ..

theorem Kept.addCount (h : Kept mask s t) (c : Ctx) (xr : Reg) (written : Bool) (n : Nat) :
    Kept mask s (addCount c xr written n t) := by
  unfold Machine.addCount
  split
  · exact h
  · split
    · exact h.setReg ..
    · exact (h.dataReg ..).setReg ..

theorem Kept.setNZO (h : Kept resultMask s t) (r : Word) : Kept resultMask s (t.setSt (setNZO t.st r)) :=
  h.setSt (setNZO_same ..) (by decide) (by decide)

theorem Kept.setPair (h : Kept mask s t) (ar : Reg) (x : DoubleWord) : Kept mask s (setPair ar x t) :=
  (h.setReg ..).setReg ..

theorem Kept.setPairNZO (h : Kept resultMask s t) (ar : Reg) (x : DoubleWord) : Kept resultMask s (setPairNZO ar x t) :=
  (h.setSt (setNZO2_same ..) (by decide) (by decide)).setPair ..

theorem normalizeSingle_ended {op : NormOp} {ar xr : Reg} (h : normalizeSingle op ar xr s = .next t) :
    Ended resultMask s t := by
  refine executeOn_ended h fun u hu => ?_
  dsimp only
  split
  · exact (hu.dataReg ..).setNZO _
  · exact (((hu.dataReg ..).setNZO _).setReg ..).addCount ..

theorem Res.Keeps.onPair {ar : Reg} {body : State → Res Unit} (hb : (body t).Keeps mask s) :
    (onPair ar body t).Keeps mask s := by
  unfold Machine.onPair
  split
  · exact hb
  · trivial

theorem normalizeDouble_ended {op : NormOp} {ar xr : Reg} (h : normalizeDouble op ar xr s = .next t) :
    Ended resultMask s t := by
  refine executeOn_ended h fun u hu => .onPair ?_
  dsimp only
  split
  · exact hu.setPairNZO ..
  · exact (hu.setPairNZO ..).addCount ..

theorem Kept.doubleShiftBy (h : Kept resultMask s t) (op : ShiftOp) (ar : Reg) (n : Nat) :
    Kept resultMask s (doubleShiftBy op ar n t) := by
  unfold Machine.doubleShiftBy
  exact (h.setSt (((putFlag_same t.st .cy _).mono (by decide)).trans ((putFlag_same _ .ov _).mono (mask' := resultMask) (by decide)))
    (by decide) (by decide)).setPairNZO ..

theorem doubleShiftX_ended {op : ShiftOp} {ar xr : Reg} (h : doubleShiftX op ar xr s = .next t) :
    Ended resultMask s t :=
  executeOn_ended h fun _ hu => .onPair ((hu.dataReg ..).doubleShiftBy ..)

theorem doubleShiftK_ended {op : ShiftOp} {pair : BitVec 2} {k : BitVec 5} (h : doubleShiftK op pair k s = .next t) :
    Ended resultMask s t :=
  executeOn_ended h fun _ hu => .onPair (hu.doubleShiftBy ..)

/-! ### Bit manipulation and moves -/

theorem Kept.bitApply (h : Kept resultMask s t) (c : Ctx) (op : BitOp) (ar : Reg) (m : Word) :
    Kept resultMask s (bitApply c op ar m t) := by
  have hcy : ∀ {u b}, Kept resultMask s u → Kept resultMask s (u.setSt (putFlag u.st .cy b)) := fun hu =>
    hu.setSt (putFlag_same ..) (by decide) (by decide)
  unfold Machine.bitApply
  cases op with
  | tbit => exact (hcy (h.dataReg c ar)).freeStatus (by decide) (by decide)
  | rbit | sbit | cbit | ibit | tsbt => exact ((hcy (h.dataReg c ar)).setNZO _).setReg ..

theorem bitX_ended {op : BitOp} {ar xr : Reg} (h : bitX op ar xr s = .next t) : Ended resultMask s t :=
  executeOn_ended h fun _ hu => (hu.dataReg ..).bitApply ..

theorem bitK_ended {op : BitOp} {ar : Reg} {k : BitVec 4} (h : bitK op ar k s = .next t) : Ended resultMask s t :=
  executeOn_ended h fun _ hu => hu.bitApply ..

theorem bitM_ended {op : BitOp} {ar xr : Reg} {m : Word} (h : bitM op ar xr m s = .next t) : Ended resultMask s t :=
  executeOn_ended h fun _ hu => hu.bitApply ..

theorem moveRegister_ended {op : MoveOp} {ar xr : Reg} (h : moveRegister op ar xr s = .next t) : Ended resultMask s t :=
  executeOn_ended h fun _ hu => ((hu.dataReg ..).setNZO _).setReg ..

/-! ### Fixed point -/

theorem fixedPoint_ended {op : FixedOp} {ok : Reg → Bool} {ar : Reg} {m : MemOp} {body : Word → State → Res Unit}
    (h : fixedPoint op ok ar m body s = .next t) (hb : ∀ a u, Kept resultMask s u → (body a u).Keeps resultMask s) :
    Ended resultMask s t := by
  refine executeOn_ended h fun u hu => ?_
  unfold onAccumulator
  split
  · exact hu
  · split
    · refine .onAbort (.bind (.effectiveAddress hu ..) hb) fun v hv => ?_
      exact hv.sameBut (abortedFixed_same op ar v) (fixedIndicators_result op ar) (by cases op <;> cases ar <;> decide)
        fun hm => memorySound_of_mem hm (by cases op <;> rfl)
    · trivial

theorem Res.Keeps.readDouble (h : Kept mask s t) (a : Word) : (readDouble a t).Keeps mask s :=
  .bind (.busRead h ..) fun _ _ h => .bind (.busRead h ..) fun _ _ h => h

theorem doubleStore_ended {ar : Reg} {m : MemOp} (h : doubleStore ar m s = .next t) : Ended resultMask s t :=
  fixedPoint_ended h fun _ _ hu => .onAbort (.bind (.busWrite hu ..) fun _ _ h =>
    .bind (.busWrite h ..) fun _ _ h => h.setSt (setNZO2_same ..) (by decide) (by decide)) fun _ h => h.freeBytes _

theorem doubleLoad_ended {ar : Reg} {m : MemOp} (h : doubleLoad ar m s = .next t) : Ended resultMask s t :=
  fixedPoint_ended h fun _ _ hu => .bind (.readDouble hu _) fun _ _ h => h.setPairNZO ..

theorem Kept.doubleSum (h : Kept resultMask s t) (ar : Reg) (n : Int) (carry : Bool) :
    Kept resultMask s (doubleSum ar n carry t) := by
  unfold Machine.doubleSum
  exact (h.setSt (((putFlag_same t.st .cy carry).mono (by decide)).trans
    ((stickyOv_same ..).mono (mask' := resultMask) (by decide))) (by decide) (by decide)).setPairNZO ..

theorem doubleAdd_ended {ar : Reg} {m : MemOp} (h : doubleAdd ar m s = .next t) : Ended resultMask s t :=
  fixedPoint_ended h fun _ _ hu => .bind (.readDouble hu _) fun _ _ h => h.doubleSum ..

theorem doubleSubtract_ended {ar : Reg} {m : MemOp} (h : doubleSubtract ar m s = .next t) : Ended resultMask s t :=
  fixedPoint_ended h fun _ _ hu => .bind (.readDouble hu _) fun _ _ h => h.doubleSum ..

theorem multiply_ended {ar : Reg} {m : MemOp} (h : multiply ar m s = .next t) : Ended resultMask s t :=
  fixedPoint_ended h fun _ _ hu => .bind (.busRead hu ..) fun _ _ h => h.setPairNZO ..

theorem multiplyAdd_ended {ar : Reg} {m : MemOp} (h : multiplyAdd ar m s = .next t) : Ended resultMask s t :=
  fixedPoint_ended h fun _ _ hu => .bind (.busRead hu ..) fun _ _ h =>
    (h.setPairNZO ..).freeStatus (by decide) (by decide)

theorem Kept.dividePair (h : Kept resultMask s t) (ar : Reg) (v : Word) : Kept resultMask s (dividePair ar v t) := by
  unfold Machine.dividePair
  dsimp only
  split
  · exact ((h.countFree.setSt (putFlag_same ..) (by decide) (by decide)).freeRegs _).freeStatus (by decide) (by decide)
  · exact (h.countFree.setNZO _).setPair ..

theorem divide_ended {ar : Reg} {m : MemOp} (h : divide ar m s = .next t) : Ended resultMask s t :=
  fixedPoint_ended h fun _ _ hu => .bind (.busRead hu ..) fun _ _ h => h.dividePair ..

/-! ### Decimals -/

theorem decimal_ended {op : DecimalOp} {two : Bool} {written : Field → Field → List Word} {reg1 reg2 : Reg}
    {o : DecOperands} {body : Field → Field → State → Res Unit}
    (h : decimal op two written reg1 reg2 o body s = .next t)
    (hb : ∀ src dst u, Kept resultMask s u → (body src dst u).Keeps resultMask s) : Ended resultMask s t := by
  refine executeOn_ended h fun u hu => ?_
  dsimp only
  generalize (if two then destField reg2 o u else sourceField reg1 o u) = dst
  split
  · exact hu
  split
  · trivial
  split
  · trivial
  · refine .onAbort (.bind (.eachOf (fun _ _ h => .busWrite h ..) _ hu) fun _ _ h => hb _ _ _ h) fun v hv => ?_
    exact hv.sameBut (abortedDecimal_same op _ v) (decimalIndicators_result op) (by cases op <;> decide)
      fun hm => memorySound_abortedDecimal hm op _

theorem Res.Keeps.moveByte (h : Kept mask s t) (dst src : Word) : (moveByte dst src t).Keeps mask s :=
  .bind (.busRead h ..) fun _ _ h => .busWrite h ..

theorem Res.Keeps.readField (h : Kept mask s t) (f : Field) : (readField f t).Keeps mask s := by
  refine .collect (fun _ _ h => ?_) _ h
  exact .bind (.busRead h ..) fun _ _ h => h

theorem Res.Keeps.writeField (h : Kept mask s t) (f : Field) (bs : List Byte) : (writeField f bs t).Keeps mask s :=
  .eachOf (fun _ _ h => .busWrite h ..) _ h

theorem Res.Keeps.writeOpen (h : Kept mask s t) (f : Field) : (writeOpen f t).Keeps mask s :=
  .eachOf (fun _ _ h => .busWrite h.countFree ..) _ h

theorem zeroAndAdd_ended {reg1 reg2 : Reg} {o : DecOperands} (h : zeroAndAdd reg1 reg2 o s = .next t) :
    Ended resultMask s t := by
  refine decimal_ended h fun src dst u hu => .eachOf (fun k v hv => ?_) _ hu
  split
  · exact .moveByte hv ..
  · exact .busWrite hv ..

theorem Res.Keeps.decimalSum (h : Kept mask s t) (combine : Int → Int → Int) (src dst : Field) :
    (decimalSum combine src dst t).Keeps mask s := by
  refine .bind (.readField h src) fun sb _ h => .bind (.readField h dst) fun db _ h => ?_
  split
  · exact .writeOpen h dst
  · exact .writeField h.countFree ..

theorem addDecimal_ended {reg1 reg2 : Reg} {o : DecOperands} (h : addDecimal reg1 reg2 o s = .next t) :
    Ended resultMask s t :=
  decimal_ended h fun _ _ _ hu => .decimalSum hu ..

theorem subtractDecimal_ended {reg1 reg2 : Reg} {o : DecOperands} (h : subtractDecimal reg1 reg2 o s = .next t) :
    Ended resultMask s t :=
  decimal_ended h fun _ _ _ hu => .decimalSum hu ..

theorem Kept.setCompare (h : Kept resultMask s t) (eq gt : Bool) : Kept resultMask s (t.setSt (setCompare t.st eq gt)) :=
  h.setSt (setCompare_same ..) (by decide) (by decide)

theorem compareDecimal_ended {reg1 reg2 : Reg} {o : DecOperands} (h : compareDecimal reg1 reg2 o s = .next t) :
    Ended resultMask s t := by
  refine decimal_ended h fun src dst u hu => .bind (.readField hu src) fun sb _ h =>
    .bind (.readField h dst) fun db v h => ?_
  show Kept resultMask s (if _ then _ else _)
  split
  · exact h.freeStatus (by decide) (by decide)
  · exact h.setCompare ..

theorem decimalShift_ended {op : DecimalOp} {shifted : Nat → List (BitVec 4) → List (BitVec 4)} {reg1 reg2 : Reg}
    {o : DecOperands} (h : decimalShift op shifted reg1 reg2 o s = .next t) : Ended resultMask s t :=
  decimal_ended h fun src _ _ hu => .bind (.readField hu src) fun _ _ h => .writeField h ..

theorem moveRight_ended {reg1 reg2 : Reg} {o : DecOperands} (h : moveRight reg1 reg2 o s = .next t) :
    Ended resultMask s t :=
  decimal_ended h fun _ _ _ hu => .eachOf (fun _ _ h => .moveByte h ..) _ hu

theorem moveLeft_ended {reg1 reg2 : Reg} {o : DecOperands} (h : moveLeft reg1 reg2 o s = .next t) :
    Ended resultMask s t :=
  decimal_ended h fun _ _ _ hu => .eachOf (fun _ _ h => .moveByte h ..) _ hu

theorem Res.Keeps.paddedByte (h : Kept mask s t) (f : Field) (k : Nat) : (paddedByte f k t).Keeps mask s := by
  unfold Machine.paddedByte
  split
  · exact .bind (.busRead h ..) fun _ _ h => h
  · exact h

theorem Res.Keeps.compareScan (src dst : Field) (ks : List Nat) :
    ∀ {t : State}, Kept resultMask s t → (compareScan src dst ks t).Keeps resultMask s := by
  induction ks with
  | nil => exact fun h => h.setCompare ..
  | cons k ks ih =>
    refine fun h => .bind (.paddedByte h src k) fun a _ h => .bind (.paddedByte h dst k) fun b _ h => ?_
    split
    · exact ih h
    · exact h.setCompare ..

theorem compareFields_ended {reg1 reg2 : Reg} {o : DecOperands} (h : compareFields reg1 reg2 o s = .next t) :
    Ended resultMask s t :=
  decimal_ended h fun src dst _ hu => .compareScan src dst _ hu

/-! ### Control -/

/-- Bits of F written in the status. -/
theorem and_not_same (st f : Word) : SameBitsBut f st (st &&& ~~~f) :=
  sameBitsBut_iff.mpr fun i hi h => by simp only [BitVec.getLsbD_and, BitVec.getLsbD_not, hi, h, decide_true,
    Bool.not_false, Bool.and_true]

theorem or_same (st f : Word) : SameBitsBut f st (st ||| f) :=
  sameBitsBut_iff.mpr fun i _ h => by simp only [BitVec.getLsbD_or, h, Bool.or_false]

theorem flagBits_subset (f : BitVec 7) : f.setWidth 16 &&& ~~~(0x007F : Word) = 0 := by revert f; decide

theorem maskWord_subset (k : BitVec 4) : maskWord k &&& ~~~(0xF000 : Word) = 0 := by revert k; decide

theorem resetStatus_ended {f : BitVec 7} (h : resetStatus f s = .next t) : Ended 0x007F s t :=
  execute_ended h fun _ hu => hu.setSt ((and_not_same ..).mono (flagBits_subset f)) (by decide) (by decide)

theorem setStatusBits_ended {f : BitVec 7} (h : setStatusBits f s = .next t) : Ended 0x007F s t :=
  execute_ended h fun _ hu => hu.setSt ((or_same ..).mono (flagBits_subset f)) (by decide) (by decide)

theorem enableLevels_ended {k : BitVec 4} (h : enableLevels k s = .next t) : Ended 0xF000 s t :=
  execute_ended h fun _ hu => hu.setSt ((and_not_same ..).mono (maskWord_subset k)) (by decide) (by decide)

theorem disableLevels_ended {k : BitVec 4} (h : disableLevels k s = .next t) : Ended 0xF000 s t :=
  execute_ended h fun _ hu => hu.setSt ((or_same ..).mono (maskWord_subset k)) (by decide) (by decide)

theorem storeStatus_ended {md : AddrMode} {d : BitVec 8} (h : storeStatus md d s = .next t) : Ended 0 s t :=
  execute_ended h fun _ hu => .busWrite hu ..

theorem storeRegisters_ended {md : AddrMode} {d : BitVec 8} (h : storeRegisters md d s = .next t) : Ended 0 s t :=
  execute_ended h fun _ hu => .onAbort (.eachOf (fun _ _ h => .busWrite h ..) _ hu) fun _ h => h.freeBytes _

theorem loadRegisters_ended {md : AddrMode} {d : BitVec 8} (h : loadRegisters md d s = .next t) : Ended 0 s t := by
  refine execute_ended h fun u hu => .onAbort (.eachOf (fun _ _ h => ?_) _ hu) fun _ h => h.freeRegs _
  exact .bind (.busRead h ..) fun _ _ h => h.setReg ..

/-- A word loaded in the status register has bit A set (R40). -/
theorem Res.Keeps.loadStatusWord (h : Kept 0xFFFF s t) (v : Word) : (loadStatusWord v t).Keeps 0xFFFF s := by
  unfold Machine.loadStatusWord
  split
  · refine { h with status := ?_, bitA := fun _ => ‹_› }
    simp [SameBitsBut]
  · trivial

/-- After an abort of such a load all but bit A is open. -/
theorem Kept.freeLoaded (h : Kept 0xFFFF s t) : Kept 0xFFFF s (t.freeStatus (~~~activeMask)) :=
  h.freeStatus (by decide) (by decide)

theorem returnFromInterrupt_ended {md : AddrMode} {d : BitVec 8} (h : returnFromInterrupt md d s = .next t) :
    Ended 0xFFFF s t :=
  execute_ended h fun _ hu => .onAbort (.bind (.busRead hu ..) fun v _ h => .bind (.busRead h ..) fun a _ h =>
    .bind (.loadStatusWord h v) fun _ _ h => h.setPc a) fun _ h => h.freeLoaded

theorem loadStatus_ended {md : AddrMode} {d : BitVec 8} (h : loadStatus md d s = .next t) : Ended 0xFFFF s t :=
  execute_ended h fun _ hu => .onAbort (.bind (.busRead hu ..) fun v _ h => .loadStatusWord h v)
    fun _ h => h.freeLoaded

theorem fetchAndClear_ended {wd : Width} {ar : Reg} {m : MemOp} (h : fetchAndClear wd ar m s = .next t) :
    Ended 0 s t := by
  refine executeOn_ended h fun u hu => .onAbort (.bind (.effectiveAddress hu ..) fun a v h => ?_)
    fun _ h => h.freeReg ar
  split
  · exact .bind (.busRead h ..) fun _ _ h => .bind (.busWrite h ..) fun _ _ h => h.setReg ..
  · exact .bind (.busWrite h ..) fun _ _ h => h.setReg ..

theorem Res.Keeps.loadProcessorRegister (h : Kept mask s t) (xr : Reg) (v : Word) :
    (loadProcessorRegister xr v t).Keeps mask s := by
  unfold Machine.loadProcessorRegister
  split
  · trivial
  · exact h.setReg ..

theorem loadCpuNumber_ended {xr : Reg} (h : loadCpuNumber xr s = .next t) : Ended 0 s t :=
  executeOn_ended h fun _ hu => .loadProcessorRegister hu ..

theorem loadKey_ended {xr : Reg} (h : loadKey xr s = .next t) : Ended 0 s t :=
  executeOn_ended h fun _ hu => .loadProcessorRegister hu ..

theorem trapRow_ended {w : Word} (h : trapRow w s = .next t) : Ended 0 s t :=
  execute_ended h fun _ hu => hu

end

end Sys2Proof.Machine

namespace Sys2Proof.Machine

section
variable {mask : Word} {s t u : State}

/-! ### HALT, the key and the waits -/

/-- A run state set in both states. -/
theorem Kept.setRun (h : Kept mask s t) (r : RunState) : Kept mask (s.setRun r) (t.setRun r) := { h with run := rfl }

/-- A key set in both states. -/
theorem Kept.setKey (h : Kept mask s t) (k : BitVec 2) : Kept mask (s.setKey k) (t.setKey k) := { h with key := rfl }

theorem haltProcessor_ended (h : haltProcessor s = .next t) : Ended 0 (s.setRun .halted) t := by
  unfold haltProcessor at h
  rw [execute_of_ok rfl] at h
  cases h
  exact .inl (((Kept.refl 0 s).setPc _).setRun .halted)

/-- An instruction on the key writes it, or is not in the model and traps. -/
theorem executeOn_key_ended {ok : Model → Bool} {code : Code} {k : BitVec 2} {f : State → State}
    (hf : ∀ u, Kept 0 (s.setKey k) (u.setKey k) → Kept 0 (s.setKey k) (f u))
    (h : executeOn ok code (fun _ u => .ok () (f u)) s = .next t) : ∃ k, Ended 0 (s.setKey k) t := by
  have start : Kept 0 s (startOf code s) := (Kept.refl 0 s).setPc _
  cases hm : ok s.par.model with
  | false =>
    rw [executeOn_of_not hm] at h
    exact ⟨s.key, .inr ⟨_, start, raiseUnimplemented_entered h⟩⟩
  | true =>
    rw [executeOn_of_implemented hm, execute_of_ok rfl] at h
    cases h
    exact ⟨k, .inl (hf _ (start.setKey k))⟩

theorem storeKey_ended {k : BitVec 2} (h : storeKey k s = .next t) : ∃ k, Ended 0 (s.setKey k) t :=
  executeOn_key_ended (fun _ hu => hu) h

theorem jumpKey_ended {k : BitVec 2} {target : Word} (h : jumpKey k target s = .next t) :
    ∃ k, Ended 0 (s.setKey k) t :=
  executeOn_key_ended (fun _ hu => hu.setPc target) h

/-- A wait instruction traps, or enters the wait with a status that leaves a level enabled and does there what a waiting
processor does (R280). -/
def Waited (mask : Word) (s t : State) : Prop :=
  Ended mask s t ∨
    ∃ v, SameBitsBut mask s.st v ∧ maskBits v ≠ 0xF ∧ waitStep ((s.setSt v).setRun .waiting) = .next t

theorem waitForInterrupt_waited {code : Code} {update : Word → Word} (hv : ∀ st, SameBitsBut mask st (update st))
    (hA : mask.getLsbD 11 = false) (h : waitForInterrupt code update s = .next t) : Waited mask s t := by
  unfold waitForInterrupt at h
  split at h
  · exact .inl (execute_ended h fun u hu => hu.setSt (hv u.st) (by simp) hA)
  · exact .inr ⟨_, hv s.st, ‹_›, h⟩

theorem enableAndWait_waited {k : BitVec 4} (h : enableAndWait k s = .next t) : Waited 0xF000 s t :=
  waitForInterrupt_waited (fun _ => (and_not_same ..).mono (maskWord_subset k)) (by decide) h

theorem disableAndWait_waited {k : BitVec 4} (h : disableAndWait k s = .next t) : Waited 0xF000 s t :=
  waitForInterrupt_waited (fun _ => (or_same ..).mono (maskWord_subset k)) (by decide) h

theorem wait_waited {code : Code} (h : waitForInterrupt code (fun st => st) s = .next t) : Waited 0 s t :=
  waitForInterrupt_waited (fun _ => rfl) (by decide) h

/-- The level picked is enabled and has a request pending (R482, R483). -/
theorem pickLevel_some {l : SysLevel} (h : pickLevel s = some l) :
    levelEnabled s.st l = true ∧ levelPending s.pending l = true := by
  simpa using List.find?_some h

/-- Taking the level picked consumes one of its requests and enters the level. -/
theorem takeSystem_entered {l : SysLevel} (hl : pickLevel s = some l) (h : takeSystem l s = .next t) :
    ∃ r ∈ s.pending, r.level = l ∧ Entered (s.setPending (s.pending.erase r)) t := by
  obtain ⟨r, hr, hrl, u, hu, ht⟩ := takeSystem_next (pickLevel_some hl).2 h
  refine ⟨r, hr, hrl, (takeLevel_entered ht).of_countFree ?_⟩
  rcases hu with rfl | rfl
  · exact .inl rfl
  · exact .inr rfl

/-- All that a waiting processor can do: wait on, run on at NEXT, or take a request of level 4 (R280, R485). -/
theorem waitStep_next (h : waitStep s = .next t) :
    t = s ∨ t = (s.setRun .running).setPc (s.pc + 2) ∨
      ∃ r ∈ s.pending, r.level = .l4 ∧ Entered (s.setPending (s.pending.erase r)) t := by
  unfold waitStep at h
  split at h
  · cases h; exact .inl rfl
  · exact .inr (.inr (takeSystem_entered ‹_› h))
  all_goals cases h; exact .inr (.inl rfl)

end

/-! ## How each instruction ends -/

/-- How an instruction that answers `t` in `s` has ended, by the state outside the registers that it may write. -/
inductive Ending (s t : State) : Instr → Prop
  | plain {i : Instr} (h : Ended resultMask s t) : Ending s t i
  | general {cls : GrClass} {wd : Width} {op : GrOp} {ar : Reg} {m : MemOp}
      (h : Ended (steppingMask (autoStep cls)) s t) : Ending s t (grInstr cls wd op ar m)
  | flags {i : Instr} (hi : ∃ f, i = .rsts f ∨ i = .sets f) (h : Ended 0x007F s t) : Ending s t i
  | levels {i : Instr} (hi : ∃ k, i = .enbl k ∨ i = .dsbl k) (h : Ended 0xF000 s t) : Ending s t i
  | load {i : Instr} (hi : ∃ md d, i = .msts md d ∨ i = .retn md d) (h : Ended 0xFFFF s t) : Ending s t i
  | key {i : Instr} (hi : ∃ k a, i = .skey k ∨ i = .jkey k a) (h : ∃ k, Ended 0 (s.setKey k) t) : Ending s t i
  | halt (h : Ended 0 (s.setRun .halted) t) : Ending s t .halt
  | wait {i : Instr} (hi : i = .waitE ∨ i = .waitD) (h : Waited 0 s t) : Ending s t i
  | waitMasked {i : Instr} (hi : ∃ k, i = .enbw k ∨ i = .dsbw k) (h : Waited 0xF000 s t) : Ending s t i

section
variable {s t : State}

theorem Ended.plain {i : Instr} (h : Ended 0 s t) : Ending s t i := .plain (h.mono (by decide))

theorem grLoad_ending {cls : GrClass} {wd : Width} {op : GrOp} {ar : Reg} {m : MemOp}
    (h : grLoad cls wd op ar m s = .next t) : Ending s t (grInstr cls wd op ar m) := .general (grLoad_ended h)

theorem grStore_ending {cls : GrClass} {wd : Width} {op : GrOp} {ar : Reg} {m : MemOp}
    (h : grStore cls wd op ar m s = .next t) : Ending s t (grInstr cls wd op ar m) := .general (grStore_ended h)

/-- All that an instruction can do outside the registers, by the rows of its family. -/
theorem exec_ending {i : Instr} (h : exec i s = .next t) : Ending s t i := by
  cases i with
  | movwLoad | subwLoad | addwLoad | andwLoad | iorwLoad | eorwLoad | cmpwLoad | tstwLoad
  | movbLoad | subbLoad | addbLoad | andbLoad | iorbLoad | eorbLoad | cmpbLoad | tstbLoad
  | movwLoadInc | subwLoadInc | addwLoadInc | andwLoadInc | iorwLoadInc | eorwLoadInc | cmpwLoadInc | tstwLoadInc
  | movbLoadInc | subbLoadInc | addbLoadInc | andbLoadInc | iorbLoadInc | eorbLoadInc | cmpbLoadInc | tstbLoadInc
  | movwLoadDec | subwLoadDec | addwLoadDec | andwLoadDec | iorwLoadDec | eorwLoadDec | cmpwLoadDec | tstwLoadDec
  | movbLoadDec | subbLoadDec | addbLoadDec | andbLoadDec | iorbLoadDec | eorbLoadDec | cmpbLoadDec | tstbLoadDec =>
    exact (grLoad_ending h :)
  | movwStore | subwStore | addwStore | andwStore | iorwStore | eorwStore | cmpwStore | tstwStore
  | movbStore | subbStore | addbStore | andbStore | iorbStore | eorbStore | cmpbStore | tstbStore
  | movwStoreInc | subwStoreInc | addwStoreInc | andwStoreInc | iorwStoreInc | eorwStoreInc | cmpwStoreInc | tstwStoreInc
  | movbStoreInc | subbStoreInc | addbStoreInc | andbStoreInc | iorbStoreInc | eorbStoreInc | cmpbStoreInc | tstbStoreInc
  | movwStoreDec | subwStoreDec | addwStoreDec | andwStoreDec | iorwStoreDec | eorwStoreDec | cmpwStoreDec | tstwStoreDec
  | movbStoreDec | subbStoreDec | addbStoreDec | andbStoreDec | iorbStoreDec | eorbStoreDec | cmpbStoreDec | tstbStoreDec =>
    exact (grStore_ending h :)
  | jump => exact (jumpTo_ended h).plain
  | jsbr => exact (jumpLink_ended h).plain
  | movwReg | subwReg | addwReg | andwReg | iorwReg | eorwReg | cmpwReg | tstwReg => exact .plain (accReg_ended h)
  | movwLit | subwLit | addwLit | andwLit | iorwLit | eorwLit | cmpwLit | tstwLit => exact .plain (accLit_ended h)
  | movwImm | subwImm | addwImm | andwImm | iorwImm | eorwImm | cmpwImm | tstwImm => exact .plain (accImm_ended h)
  | nopr => exact (noOperation_ended h).plain
  | brun => exact (branchAlways_ended h).plain
  | beqt | beqf | bgtt | bgtf | bovt | bovf | bcyt | bcyf | bf1t | bf1f | bf2t | bf2f | bf3t | bf3f | blpt | blpf
  | bodt | bodf | bzet | bzef | bngt | bngf | bltt | bltf => exact (branchOn_ended h).plain
  | slaoX | slllX | slloX | sllcX | sraoX | srllX | srloX | srlcX => exact .plain (shiftX_ended h)
  | slaoK | slllK | slloK | sllcK | sraoK | srllK | srloK | srlcK => exact .plain (shiftK_ended h)
  | slan | slln | sran | srln => exact .plain (normalizeSingle_ended h)
  | dlan | dlln | dran | drln => exact .plain (normalizeDouble_ended h)
  | dlaoX | dlllX | dlloX | dllcX | draoX | drllX | drloX | drlcX => exact .plain (doubleShiftX_ended h)
  | dlaoK | dlllK | dlloK | dllcK | draoK | drllK | drloK | drlcK => exact .plain (doubleShiftK_ended h)
  | rsts f => exact .flags ⟨f, .inl rfl⟩ (resetStatus_ended h)
  | sets f => exact .flags ⟨f, .inr rfl⟩ (setStatusBits_ended h)
  | enbl k => exact .levels ⟨k, .inl rfl⟩ (enableLevels_ended h)
  | dsbl k => exact .levels ⟨k, .inr rfl⟩ (disableLevels_ended h)
  | enbw k => exact .waitMasked ⟨k, .inl rfl⟩ (enableAndWait_waited h)
  | dsbw k => exact .waitMasked ⟨k, .inr rfl⟩ (disableAndWait_waited h)
  | stsm => exact (storeStatus_ended h).plain
  | regm => exact (storeRegisters_ended h).plain
  | mreg => exact (loadRegisters_ended h).plain
  | retn md d => exact .load ⟨md, d, .inr rfl⟩ (returnFromInterrupt_ended h)
  | msts md d => exact .load ⟨md, d, .inl rfl⟩ (loadStatus_ended h)
  | fclw | fclb => exact (fetchAndClear_ended h).plain
  | skey k => exact .key ⟨k, 0, .inl rfl⟩ (storeKey_ended h)
  | jkey k target => exact .key ⟨k, target, .inr rfl⟩ (jumpKey_ended h)
  | lcpu => exact (loadCpuNumber_ended h).plain
  | lkey => exact (loadKey_ended h).plain
  | rbitX | sbitX | cbitX | ibitX | tsbtX | tbitX => exact .plain (bitX_ended h)
  | rbitK | sbitK | cbitK | ibitK | tsbtK | tbitK => exact .plain (bitK_ended h)
  | rbitM | sbitM | cbitM | ibitM | tsbtM | tbitM => exact .plain (bitM_ended h)
  | negt | cplm | movp | movn => exact .plain (moveRegister_ended h)
  | dsta => exact .plain (doubleStore_ended h)
  | dsub => exact .plain (doubleSubtract_ended h)
  | dadd => exact .plain (doubleAdd_ended h)
  | divd => exact .plain (divide_ended h)
  | dlod => exact .plain (doubleLoad_ended h)
  | mlta => exact .plain (multiplyAdd_ended h)
  | mult => exact .plain (multiply_ended h)
  | zadd => exact .plain (zeroAndAdd_ended h)
  | addd => exact .plain (addDecimal_ended h)
  | subd => exact .plain (subtractDecimal_ended h)
  | cmpd => exact .plain (compareDecimal_ended h)
  | sftr | sftl => exact .plain (decimalShift_ended h)
  | movr => exact .plain (moveRight_ended h)
  | movl => exact .plain (moveLeft_ended h)
  | comp => exact .plain (compareFields_ended h)
  | trap => exact (trapRow_ended h).plain
  | halt => exact .halt (haltProcessor_ended h)
  | waitE => exact .wait (.inl rfl) (wait_waited h)
  | waitD => exact .wait (.inr rfl) (wait_waited h)

end

end Sys2Proof.Machine

namespace Sys2Proof.Machine

/-! ## The status, the requests, the key and the run state over a whole instruction -/

/-- The status bits apart from a mask and from bit A are the same. -/
def StatusKept (mask : Word) (s t : State) : Prop :=
  ∀ bits : Word, mask &&& bits = 0 → activeMask &&& bits = 0 → t.st &&& bits = s.st &&& bits

section
variable {mask : Word} {s t : State}

theorem SameBitsBut.statusKept (h : SameBitsBut mask s.st t.st) : StatusKept mask s t := fun _ hm _ => h.and_eq hm

/-- An identity entry adds only bit A (R476). -/
theorem Entered.statusKept (h : Entered s t) (hp : s.par.entryStatus = .identity) : StatusKept mask s t := by
  obtain ⟨l, hst⟩ := h.status
  intro bits _ hA
  rw [hst, entryStatus, hp]
  exact (or_same s.st activeMask).and_eq hA

theorem StatusKept.trans {u : State} (h : StatusKept mask s u) (g : StatusKept mask u t) : StatusKept mask s t :=
  fun bits hm hA => (g bits hm hA).trans (h bits hm hA)

theorem Ended.statusKept (h : Ended mask s t) (hp : s.par.entryStatus = .identity) : StatusKept mask s t := by
  rcases h with hk | ⟨u, hk, he⟩
  · exact hk.status.statusKept
  · exact hk.status.statusKept.trans (he.statusKept (by rw [hk.inputs.2.1, hp]))

theorem Waited.statusKept (h : Waited mask s t) (hp : s.par.entryStatus = .identity) : StatusKept mask s t := by
  rcases h with he | ⟨v, hv, -, hw⟩
  · exact he.statusKept hp
  · have hv : StatusKept mask s (s.setSt v) := hv.statusKept
    rcases waitStep_next hw with rfl | rfl | ⟨r, -, -, he⟩
    · exact hv
    · exact hv
    · exact StatusKept.trans hv (he.statusKept (mask := mask) hp)

/-- A status kept but for a mask apart from F1 to F3, the mask bits and LP keeps those. -/
theorem StatusKept.control (h : StatusKept mask s t) (hm : mask &&& 0xF0F0 = 0) :
    t.st &&& 0x0070 = s.st &&& 0x0070 ∧ t.st &&& 0xF000 = s.st &&& 0xF000 ∧ t.st &&& 0x0080 = s.st &&& 0x0080 := by
  have sub : ∀ bits : Word, 0xF0F0 &&& bits = bits → mask &&& bits = 0 := fun bits hb => by
    rw [← hb, ← BitVec.and_assoc, hm]
    exact BitVec.zero_and
  exact ⟨h _ (sub _ (by decide)) (by decide), h _ (sub _ (by decide)) (by decide), h _ (sub _ (by decide)) (by decide)⟩

end

/-- Settles O57: by the ways in which an instruction can end, each with the mask of the status bits that it may write. -/
theorem statusBitsKept : Obligations.StatusBitsKept := by
  intro i s t hp h hload
  have all : ∀ {f m lp hf hm hlp : Prop}, f ∧ m ∧ lp → (hf → f) ∧ (hm → m) ∧ (hlp → lp) := fun ⟨f, m, lp⟩ =>
    ⟨fun _ => f, fun _ => m, fun _ => lp⟩
  cases exec_ending h with
  | plain he => exact all ((he.statusKept hp).control (by decide))
  | @general cls wd op ar m he =>
    cases hauto : autoStep cls with
    | none => rw [hauto] at he; exact all ((he.statusKept hp).control (by decide))
    | inc | dec =>
      rw [hauto] at he
      exact ⟨fun _ => he.statusKept hp _ (by decide) (by decide), fun _ => he.statusKept hp _ (by decide) (by decide),
        fun hlp => absurd rfl (hlp cls wd op ar m (by simp [hauto]))⟩
  | flags hi he =>
    obtain ⟨f, hi⟩ := hi
    exact ⟨fun hf => (hi.elim (hf f).1 (hf f).2).elim, fun _ => he.statusKept hp _ (by decide) (by decide),
      fun _ => he.statusKept hp _ (by decide) (by decide)⟩
  | levels hi he =>
    obtain ⟨k, hi⟩ := hi
    exact ⟨fun _ => he.statusKept hp _ (by decide) (by decide),
      fun hk => (hi.elim (hk k).1 (hk k).2.2.1).elim, fun _ => he.statusKept hp _ (by decide) (by decide)⟩
  | waitMasked hi he =>
    obtain ⟨k, hi⟩ := hi
    exact ⟨fun _ => he.statusKept hp _ (by decide) (by decide),
      fun hk => (hi.elim (hk k).2.1 (hk k).2.2.2).elim, fun _ => he.statusKept hp _ (by decide) (by decide)⟩
  | load hi =>
    obtain ⟨md, d, hi⟩ := hi
    exact (hi.elim (hload md d).1 (hload md d).2).elim
  | key hi he =>
    obtain ⟨k, he⟩ := he
    exact all ((he.statusKept hp).control (by decide))
  | halt he => exact all ((he.statusKept hp).control (by decide))
  | wait hi he => exact all ((he.statusKept hp).control (by decide))

/-- What `ControlStateKept` says of an instruction. -/
def ControlKept (i : Instr) (s t : State) : Prop :=
  let waits := i = .waitE ∨ i = .waitD ∨ ∃ k, i = .enbw k ∨ i = .dsbw k
  t.par = s.par ∧ t.inputs = s.inputs ∧
  (t.pending = s.pending ∨ waits ∧ ∃ r ∈ s.pending, r.level = .l4 ∧ t.pending = s.pending.erase r) ∧
  ((∀ k a, i ≠ .skey k ∧ i ≠ .jkey k a) → t.key = s.key) ∧
  (s.run = .running → t.run = .halted → i = .halt) ∧
  (s.run = .running → t.run = .waiting → waits)

theorem Ended.control {mask : Word} {i : Instr} {s t : State} (h : Ended mask s t) : ControlKept i s t := by
  obtain ⟨hp, hpar, hi⟩ := h.inputs
  have hrun : s.run = .running → t.run = .running := fun hr => h.run.elim (·.trans hr) id
  exact ⟨hpar, hi, .inl hp, fun _ => h.key, fun hr hh => absurd ((hrun hr).symm.trans hh) (by decide),
    fun hr hw => absurd ((hrun hr).symm.trans hw) (by decide)⟩

theorem Waited.control {mask : Word} {i : Instr} {s t : State} (h : Waited mask s t)
    (hw : i = .waitE ∨ i = .waitD ∨ ∃ k, i = .enbw k ∨ i = .dsbw k) : ControlKept i s t := by
  rcases h with he | ⟨v, -, -, hs⟩
  · exact he.control
  rcases waitStep_next hs with rfl | rfl | ⟨r, hr, hl, he⟩
  · exact ⟨rfl, rfl, .inl rfl, fun _ => rfl, fun _ (hh : RunState.waiting = .halted) => (nomatch hh), fun _ _ => hw⟩
  · exact ⟨rfl, rfl, .inl rfl, fun _ => rfl, fun _ (hh : RunState.running = .halted) => (nomatch hh), fun _ _ => hw⟩
  · exact ⟨he.inputs.2.1, he.inputs.2.2, .inr ⟨hw, r, hr, hl, he.inputs.1⟩, fun _ => he.key,
      fun _ hh => absurd (he.run.symm.trans hh) (by decide), fun _ _ => hw⟩

/-- Settles O58: by the ways in which an instruction can end. -/
theorem controlStateKept : Obligations.ControlStateKept := by
  intro i s t h
  show ControlKept i s t
  cases exec_ending h with
  | plain he => exact he.control
  | general he => exact he.control
  | flags hi he => exact he.control
  | levels hi he => exact he.control
  | load hi he => exact he.control
  | key hi he =>
    obtain ⟨k, he⟩ := he
    obtain ⟨k', a, hi⟩ := hi
    obtain ⟨hpar, hin, hp, -, hrest⟩ := he.control (i := i)
    exact ⟨hpar, hin, hp, fun hk => (hi.elim (hk k' a).1 (hk k' a).2).elim, hrest⟩
  | halt he =>
    obtain ⟨hp, hpar, hin⟩ := he.inputs
    exact ⟨hpar, hin, .inl hp, fun _ => he.key, fun _ _ => rfl, fun _ hw => by rcases he.run with hr | hr <;> simp_all⟩
  | wait hi he => exact he.control (hi.imp_right .inl)
  | waitMasked hi he => exact he.control (.inr (.inr hi))

/-! ## Soundness -/

section
variable {mask : Word} {s t : State}

theorem active_or (v : Word) : active (v ||| activeMask) = true := by simp [active, activeMask]

theorem entryStatus_active (par : Params) (l : Level) (st : Word) : active (entryStatus par l st) = true := by
  unfold entryStatus
  split <;> exact active_or _

theorem waitSound_of_run (h : s.run ≠ .waiting) : waitSound s = true := by simp [waitSound, h]

/-- An entry leaves a sound state, its bit A set and running. -/
theorem Entered.sound (h : Entered s t) (hm : memorySound s = true) (hn : s.pending.Nodup) : t.Sound := by
  obtain ⟨l, hst⟩ := h.status
  exact ⟨h.memory hm, hst ▸ entryStatus_active .., h.inputs.1 ▸ hn, waitSound_of_run (by simp [h.run])⟩

theorem Kept.sound (h : Kept mask s t) (hs : s.Sound) (hr : s.run ≠ .waiting) : t.Sound := by
  obtain ⟨hm, hA, hn, -⟩ := hs
  exact ⟨h.memory hm, h.bitA hA, h.inputs.1 ▸ hn, waitSound_of_run (h.run ▸ hr)⟩

theorem Ended.sound (h : Ended mask s t) (hs : s.Sound) (hr : s.run ≠ .waiting) : t.Sound := by
  rcases h with hk | ⟨u, hk, he⟩
  · exact hk.sound hs hr
  · have hu := hk.sound hs hr
    exact he.sound hu.1 hu.2.2.1

theorem waitStep_sound (hs : s.Sound) (h : waitStep s = .next t) : t.Sound := by
  obtain ⟨hm, hA, hn, -⟩ := id hs
  rcases waitStep_next h with rfl | rfl | ⟨r, -, -, he⟩
  · exact hs
  · exact ⟨hm, hA, hn, waitSound_of_run (by simp)⟩
  · exact he.sound hm (hn.erase r)

/-- The wait is entered with a level enabled, so that it is sound. -/
theorem Waited.sound (h : Waited mask s t) (hA : mask.getLsbD 11 = false) (hs : s.Sound) (hr : s.run ≠ .waiting) :
    t.Sound := by
  rcases h with he | ⟨v, hv, hk, hw⟩
  · exact he.sound hs hr
  · obtain ⟨hm, ha, hn, -⟩ := hs
    have hs : ((s.setSt v).setRun .waiting).Sound := ⟨hm, (hv.active hA).trans ha, hn, by simpa [waitSound] using hk⟩
    exact waitStep_sound hs hw

theorem exec_sound {i : Instr} (hs : s.Sound) (hr : s.run = .running) (h : exec i s = .next t) : t.Sound := by
  have hr' : s.run ≠ .waiting := by simp [hr]
  cases exec_ending h with
  | plain he => exact he.sound hs hr'
  | general he => exact he.sound hs hr'
  | flags hi he => exact he.sound hs hr'
  | levels hi he => exact he.sound hs hr'
  | load hi he => exact he.sound hs hr'
  | key hi he => obtain ⟨k, he⟩ := he; exact he.sound (s := s.setKey k) hs hr'
  | halt he => exact he.sound ⟨hs.1, hs.2.1, hs.2.2.1, waitSound_of_run (by simp)⟩ (by simp)
  | wait hi he => exact he.sound (by decide) hs hr'
  | waitMasked hi he => exact he.sound (by decide) hs hr'

end

/-! ### The fetch -/

section
variable {s t u : State}

theorem fetchSecond_instr {p w : Word} {i : Instr} (h : fetchSecond p w s = .instr i u) : Kept 0 s u := by
  unfold fetchSecond at h
  split at h
  · split at h <;> cases h
    have e := Res.onAbort_eq_ok.mp ‹_›
    exact (Kept.refl 0 s).core (busRead_keeps e).1 (busRead_keeps e).2
  · cases h
    exact .refl 0 s

/-- A fetch of a second word that ends the step: the abort, after what it opens. -/
theorem fetchSecond_stop {p w : Word} (h : fetchSecond p w s = .stop (.next t)) :
    ∃ u, Kept 0 s u ∧ Entered (abortedSecondWord w u) t := by
  unfold fetchSecond at h
  split at h
  · split at h
    · cases h
    · obtain ⟨u, e, rfl⟩ := Res.onAbort_eq_abort.mp ‹_›
      obtain ⟨-, -, hc, hm⟩ := busRead_abort e
      exact ⟨u, (Kept.refl 0 s).core hc hm, raiseAbort_entered (Fetched.stop.inj h)⟩
    · exact absurd (Res.onAbort_eq_trap.mp ‹_›) (busRead_no_trap _ _ _ _ _)
    · cases h
  · cases h

theorem fetch_instr {i : Instr} (h : fetch s = .instr i u) : Kept 0 s u := by
  unfold fetch at h
  split at h
  · cases h
  · split at h
    · have k := busRead_keeps ‹_›
      exact ((Kept.refl 0 s).core k.1 k.2).trans (fetchSecond_instr h)
    all_goals cases h

/-- A fetch that ends the step in a next state has taken an abort's entry; the requests are kept till then. -/
theorem fetch_stop (h : fetch s = .stop (.next t)) :
    ∃ u, u.pending = s.pending ∧ (memorySound s = true → memorySound u = true) ∧ Entered u t := by
  unfold fetch at h
  split at h
  · cases h
  · split at h
    · rename_i w v e
      obtain ⟨u, hu, he⟩ := fetchSecond_stop h
      obtain ⟨hi, -, -, -, -, hm, -⟩ := abortedSecondWord_keeps w u
      have k := ((Kept.refl 0 s).core (busRead_keeps e).1 (busRead_keeps e).2).trans hu
      exact ⟨_, hi.1.trans k.inputs.1, hm ∘ k.memory, he⟩
    · obtain ⟨-, -, hc, hm⟩ := busRead_abort ‹_›
      exact ⟨_, ((Kept.refl 0 s).core hc hm).inputs.1, hm, raiseAbort_entered (Fetched.stop.inj h)⟩
    · exact absurd ‹_› (busRead_no_trap _ _ _ _ _)
    · cases h

/-! ### The step -/

theorem takeSystem_sound {l : SysLevel} (hs : s.Sound) (hl : pickLevel s = some l) (h : takeSystem l s = .next t) :
    t.Sound := by
  obtain ⟨r, -, -, he⟩ := takeSystem_entered hl h
  exact he.sound hs.1 (hs.2.2.1.erase r)

theorem runStep_sound (hs : s.Sound) (hr : s.run = .running) (h : runStep s = .next t) : t.Sound := by
  unfold runStep at h
  split at h
  · exact takeSystem_sound hs ‹_› h
  · split at h
    · rename_i i u e
      have k := fetch_instr e
      exact exec_sound (k.sound hs (by simp [hr])) (k.run.trans hr) h
    · subst h
      obtain ⟨u, hp, hm, he⟩ := fetch_stop ‹_›
      exact he.sound (hm hs.1) (hp ▸ hs.2.2.1)

theorem stepArrived_sound (hs : s.Sound) (h : stepArrived s = .next t) : t.Sound := by
  unfold stepArrived at h
  split at h
  · exact runStep_sound hs ‹_› h
  · exact waitStep_sound hs h
  · cases h; exact hs

theorem addRequest_nodup {p : List Request} (h : p.Nodup) (r : Request) : (addRequest r p).Nodup := by
  unfold addRequest
  split
  · exact h
  · exact h.append (List.nodup_singleton r) (by simpa using ‹r ∉ p›)

theorem panelWrite_sound {f : State → State} (hs : s.Sound) (hf : s.run = .halted → (f s).Sound) :
    (s.panelWrite f).Sound := by
  unfold State.panelWrite
  split
  · exact hf ‹_›
  all_goals exact hs

theorem applyInput_sound (hs : s.Sound) (i : Input) : (applyInput s i).Sound := by
  obtain ⟨hm, hA, hn, hw⟩ := id hs
  cases i with
  | request r => exact ⟨hm, hA, addRequest_nodup hn r, hw⟩
  | withdraw r => exact ⟨hm, hA, hn.erase r, hw⟩
  | run =>
    unfold applyInput
    dsimp only
    split
    · exact ⟨hm, hA, hn, waitSound_of_run (by simp)⟩
    all_goals exact hs
  | busWrite cells =>
    obtain ⟨-, hst, -, hrun, hp, -⟩ := depositCells_same cells s
    refine ⟨memorySound_depositCells cells hm, ?_, ?_, ?_⟩
    · exact (congrArg active hst).trans hA
    · exact hp.symm ▸ hn
    · simpa only [applyInput, waitSound, hst, hrun] using hw
  | setRegister r v => exact panelWrite_sound hs fun _ => hs
  | setStatus v => exact panelWrite_sound hs fun hr => ⟨hm, active_or v, hn, waitSound_of_run (by simp [hr])⟩

theorem arrive_sound (hs : s.Sound) : (arrive s).Sound := by
  unfold arrive
  split
  · exact hs
  · exact List.foldlRecOn (motive := State.Sound) _ _ hs fun _ h i _ => applyInput_sound h i

end

/-- Settles O10: the events keep a state sound, and so does what the step then does in each run state. -/
theorem stepKeepsSound : Obligations.StepKeepsSound := fun _ _ hs h => stepArrived_sound (arrive_sound hs) h

end Sys2Proof.Machine

/-! PROOF. The step of a running processor: the requests it takes, what it fetches, and the status register's own instructions. -/

namespace Sys2Proof.Machine

/-! ## Branch conditions -/

/-- Settles O25: by the condition, each one bit of the status, LT of two. -/
theorem branchConditions : Obligations.BranchConditions := fun st =>
  ⟨rfl, rfl, rfl, rfl, rfl, rfl, rfl, rfl, rfl, rfl, rfl, show (!flag st .gt && !flag st .eq) = _ from rfl⟩

/-! ## Requests -/

theorem levelEnabled_iff {st : Word} {l : SysLevel} :
    levelEnabled st l = true ↔ st.getLsbD (11 + levelNumber l) = false := by simp [levelEnabled]

theorem levelEnabled_eq_false_iff {st : Word} {l : SysLevel} :
    levelEnabled st l = false ↔ st.getLsbD (11 + levelNumber l) = true := by simp [levelEnabled]

theorem levelPending_iff {p : List Request} {l : SysLevel} : levelPending p l = true ↔ ∃ r ∈ p, r.level = l := by
  simp [levelPending]

theorem levelPending_eq_false_iff {p : List Request} {l : SysLevel} :
    levelPending p l = false ↔ ∀ r ∈ p, r.level ≠ l := by
  simp [levelPending]

/-- The level picked is the first of the list that is enabled and pending (R483). -/
theorem pickLevel_eq_some_iff {s : State} {l : SysLevel} :
    pickLevel s = some l ↔ (levelEnabled s.st l = true ∧ levelPending s.pending l = true) ∧
      ∃ before rest, s.par.priority = before ++ l :: rest ∧
        ∀ l' ∈ before, levelEnabled s.st l' = false ∨ levelPending s.pending l' = false := by
  unfold pickLevel
  rw [List.find?_eq_some_iff_append]
  simp

theorem pickLevel_eq_none_iff {s : State} :
    pickLevel s = none ↔ ∀ l ∈ s.par.priority, levelEnabled s.st l = false ∨ levelPending s.pending l = false := by
  simp [pickLevel, Decidable.imp_iff_not_or]

theorem step_of_running {s : State} (hr : (arrive s).run = .running) : step s = runStep (arrive s) := by
  unfold step stepArrived
  rw [hr]

/-- At a recognition point the level picked is taken. -/
theorem step_of_pickLevel {s : State} {l : SysLevel} (hr : (arrive s).run = .running) (hl : pickLevel (arrive s) = some l) :
    step s = takeSystem l (arrive s) := by
  rw [step_of_running hr, runStep, hl]

/-- Settles O55: the step takes the level picked, and what `pickLevel` picks is a search of the list. -/
theorem requestsTaken : Obligations.RequestsTaken := by
  intro s
  refine ⟨fun hr l hl hb => ?_, fun l hl => ?_, fun h => ?_, fun r hr he hp hn => ?_⟩
  · obtain ⟨hen, hpen⟩ := pickLevel_some hl
    obtain ⟨r, t, hr', hrl, ht, hd⟩ := takeSystem_done hpen hb
    exact ⟨r, t, hr', hrl, levelEnabled_iff.mp hen, (step_of_pickLevel hr hl).trans ht, hd⟩
  · obtain ⟨⟨hen, hpen⟩, before, rest, he, hb⟩ := pickLevel_eq_some_iff.mp hl
    exact ⟨levelEnabled_iff.mp hen, levelPending_iff.mp hpen, before, rest, he, fun l' hl' =>
      (hb l' hl').imp levelEnabled_eq_false_iff.mp levelPending_eq_false_iff.mp⟩
  · refine pickLevel_eq_none_iff.mpr fun l _ => ?_
    by_cases hl : ∃ r ∈ s.pending, r.level = l
    · obtain ⟨r, hr, rfl⟩ := hl
      exact .inl (levelEnabled_eq_false_iff.mpr (h r hr))
    · exact .inr (levelPending_eq_false_iff.mpr fun r hr hrl => hl ⟨r, hr, hrl⟩)
  · rcases pickLevel_eq_none_iff.mp hn r.level hp with h | h
    · exact absurd (levelEnabled_eq_false_iff.mp h) (by simp [he])
    · exact levelPending_eq_false_iff.mp h r hr rfl

/-! ## The fetch -/

section
variable {s : State}

theorem runStep_of_instr {i : Instr} {v : State} (hp : pickLevel s = none) (h : fetch s = .instr i v) :
    runStep s = exec i v := by
  simp only [runStep, hp, h]

theorem runStep_of_stop {o : Host.Outcome State Fault Refusal} (hp : pickLevel s = none) (h : fetch s = .stop o) :
    runStep s = o := by
  simp only [runStep, hp, h]

theorem fetch_of_memory (he : s.pc.getLsbD 0 = false) (hm : InMemory s .word s.pc) :
    fetch s = fetchSecond s.pc (s.wordAt s.pc) s := by
  simp only [fetch, he, busRead_memory hm, State.fetchData, Bool.false_eq_true, if_false]

theorem fetchSecond_of_memory {p w : Word} (h : readsSecondWord s.par.model w = true) (hm : InMemory s .word (p + 2)) :
    fetchSecond p w s = .instr (decode s.par.model w (s.wordAt (p + 2))) s := by
  simp only [fetchSecond, h, if_true, busRead_memory hm, State.fetchData, Res.onAbort]

theorem fetchSecond_of_one {p w : Word} (h : readsSecondWord s.par.model w = false) :
    fetchSecond p w s = .instr (decode s.par.model w 0) s := by
  simp only [fetchSecond, h, Bool.false_eq_true, if_false]

theorem busRead_nothing {wd : Width} {a : Word} (h : s.site (busAddress wd a) = .nothing) :
    busRead wd a s = .abort (busAddress wd a) wd s := by
  simp only [busRead, h]

theorem fetchSecond_of_nothing {p w : Word} (h : readsSecondWord s.par.model w = true)
    (hs : s.site (busAddress .word (p + 2)) = .nothing) :
    fetchSecond p w s =
      .stop (raiseAbort p (some w) (busAddress .word (p + 2)) .word (abortedSecondWord w s)) := by
  simp only [fetchSecond, h, if_true, busRead_nothing hs, Res.onAbort]

end

/-- The bytes of two words decode to the instruction of those words. -/
theorem decodeBytes_words {mdl : Model} {w w2 : Word} {i : Instr} {rest : List Byte}
    (h : decodeBytes mdl (wordBytes w ++ wordBytes w2) = .ok (i, rest)) :
    i = decode mdl w (if hasSecondWord mdl w then w2 else 0) := by
  simp only [decodeBytes, wordBytes, List.cons_append, List.nil_append, wordOfBytes_bytes] at h
  split at h
  · rename_i hs
    cases h
    rw [if_pos hs]
  · rename_i hs
    cases h
    rw [if_neg hs]

/-- A class B instruction with AR = 0 or 1 traps on every model, whatever its operand (R431). -/
theorem exec_fixedInstr_low {op : FixedOp} {ar : Reg} {m : MemOp} {s : State} (h : ar = .r0 ∨ ar = .r1) :
    exec (fixedInstr op ar m) s =
      raiseUnimplemented s.pc (fixedCode op ar m).first none (startOf (fixedCode op ar m) s) := by
  have key : ∀ {op ok body}, fixedPoint op ok ar m body s =
      raiseUnimplemented s.pc (fixedCode op ar m).first none (startOf (fixedCode op ar m) s) := by
    intro op ok body
    unfold fixedPoint
    cases hm : s.par.model.isScientific with
    | false => rw [executeOn_of_not hm]
    | true =>
      rw [executeOn_of_implemented hm]
      exact execute_of_trap (if_pos (h.imp_right .inl))
  cases op with
  | mult => rcases h with rfl | rfl <;> exact key
  | dsta | dsub | dadd | divd | dlod => exact key

/-- A first word of class B with a second word is an instruction of the 1112 models. -/
theorem decode_fixed {mdl : Model} {w : Word} (hc : fieldC w = 11) (h : hasSecondWord mdl w = true) :
    w.getLsbD 3 = true ∧ ∃ op, ∀ w2, decode mdl w w2 = fixedInstr op (fieldAr w) (memOpOf w w2) := by
  simp only [hasSecondWord, hc, BitVec.reduceToNat, Bool.and_eq_true, Bool.not_eq_true', Bool.or_eq_false_iff,
    beq_eq_false_iff_ne] at h
  obtain ⟨⟨⟨h3, hsci⟩, h11⟩, h6, h7⟩ := h
  have hsome : (fixedOpOf (fieldOp w)).isSome = true := by
    generalize fieldOp w = b at h6 h7
    revert b; decide
  obtain ⟨op, hop⟩ := Option.isSome_iff_exists.mp hsome
  refine ⟨h3, op, fun w2 => ?_⟩
  simp only [decode, hc, BitVec.reduceToNat, decodeFixed, hsci, h11, hop, Bool.not_true, Bool.false_eq_true, if_false]

/-- Of a class B instruction with AR = 0 or 1 the second word does not matter. -/
theorem exec_decode_low {mdl : Model} {w w2 : Word} {s : State} (hc : fieldC w = 11) (h : hasSecondWord mdl w = true)
    (ha : fieldAr w = .r0 ∨ fieldAr w = .r1) : exec (decode mdl w w2) s = exec (decode mdl w 0) s := by
  obtain ⟨h3, op, hd⟩ := decode_fixed hc h
  rw [hd, hd, exec_fixedInstr_low ha, exec_fixedInstr_low ha]
  simp only [memOpOf, h3, if_true]
  rfl

theorem readsSecondWord_iff {mdl : Model} {w : Word} : readsSecondWord mdl w = true ↔
    hasSecondWord mdl w = true ∧ ¬(fieldC w = 11 ∧ (fieldAr w = .r0 ∨ fieldAr w = .r1)) := by
  simp only [readsSecondWord, Bool.and_eq_true, Bool.not_eq_true', ← Bool.not_eq_true, Bool.or_eq_true, beq_iff_eq]

/-- Settles O11: the fetch gives the instruction that the bytes decode to; a class B instruction with AR = 0 or 1, whose second
word is not read, does the same with any second word. -/
theorem stepRunsDecoded : Obligations.StepRunsDecoded := by
  intro s i rest
  dsimp only
  intro hr hp he hm hm2 hd
  obtain rfl := decodeBytes_words hd
  rw [step_of_running hr]
  generalize arrive s = u at *
  have hf := fetch_of_memory he hm
  cases hread : readsSecondWord u.par.model (u.wordAt u.pc) with
  | true =>
    have hs := (readsSecondWord_iff.mp hread).1
    rw [fetchSecond_of_memory hread (hm2 hs)] at hf
    rw [runStep_of_instr hp hf, if_pos hs]
  | false =>
    rw [fetchSecond_of_one hread] at hf
    rw [runStep_of_instr hp hf]
    split
    · rename_i hs
      obtain ⟨hc, ha⟩ := not_not.mp fun hn => Bool.false_ne_true (hread.symm.trans (readsSecondWord_iff.mpr ⟨hs, hn⟩))
      exact (exec_decode_low hc hs ha).symm
    · rfl

/-! ### A fetch that nothing answers -/

/-- A word at an even address is on the bus at that address. -/
theorem busAddress_even {a : Word} (h : a.getLsbD 0 = false) : busAddress .word a = a := by
  apply BitVec.eq_of_getLsbD_eq
  intro i hi
  rw [busAddress, BitVec.getLsbD_and]
  rcases Nat.eq_zero_or_pos i with rfl | h0
  · rw [h, Bool.false_and]
  · have : (0xFFFE : Word).getLsbD i = true := by revert h0 hi; revert i; decide
    rw [this, Bool.and_true]

theorem even_add_two {a : Word} (h : a.getLsbD 0 = false) : (a + 2).getLsbD 0 = false := by
  have : a.toNat % 2 = 0 := by simpa [BitVec.getLsbD, Nat.testBit_zero] using h
  have : (a + 2).toNat % 2 = 0 := by rw [BitVec.toNat_add]; simp; omega
  simpa [BitVec.getLsbD, Nat.testBit_zero] using this

theorem BlockInMemory.of_same {s u : State} {l : Level} (h : BlockInMemory s l) (hp : u.par = s.par)
    (hk : u.key = s.key) : BlockInMemory u l := by
  intro k hk'
  have := h k hk'
  unfold InMemory State.site at this ⊢
  rwa [hp, hk]

/-- Bit 0 apart, the address word of an abort is the failing address (R478). -/
theorem abortInfo_address (a : Word) (wd : Width) (s : State) : (abortInfo a wd s).1 &&& 0xFFFE = a &&& 0xFFFE := by
  cases wd with
  | byte => rfl
  | word =>
    show ((a &&& 0xFFFE) ||| (s.freeWord &&& 1)) &&& 0xFFFE = _
    have h0 : s.freeWord &&& 1 &&& 0xFFFE = 0 := by rw [BitVec.and_assoc]; exact BitVec.and_zero
    rw [BitVec.and_or_distrib_right, h0, BitVec.and_assoc]
    exact BitVec.or_zero

theorem EntryDone.of_countFree {l : Level} {info ret : Word} {s u t : State} (hu : u = s ∨ u = s.countFree)
    (h : EntryDone l info ret u t) : EntryDone l info ret s t := by
  rcases hu with rfl | rfl
  · exact h
  · exact h.of_same (fun _ _ => rfl) rfl rfl rfl rfl rfl rfl rfl rfl

/-- The abort of the fetch of a first word, whose class is not known (R474, R478). -/
theorem raiseAbort_first_done {p a : Word} {wd : Width} {s : State} (h : BlockInMemory s .abort) :
    ∃ info t, raiseAbort p none a wd s = .next t ∧ EntryDone .abort info (trapSavedPc p none s).1 s t ∧
      info &&& 0xFFFE = a &&& 0xFFFE := by
  have hp := trapSavedPc_state p none s
  have ha := abortInfo_state a wd (trapSavedPc p none s).2
  have hb : BlockInMemory (abortInfo a wd (trapSavedPc p none s).2).2 .abort := by
    rcases ha with ha | ha <;> rcases hp with hp | hp <;> rw [ha, hp] <;> exact h
  obtain ⟨t, ht, hd⟩ := takeLevel_done (info := (abortInfo a wd (trapSavedPc p none s).2).1)
    (ret := (trapSavedPc p none s).1) hb
  exact ⟨_, t, ht, (hd.of_countFree ha).of_countFree hp, abortInfo_address ..⟩

/-- The abort of the fetch of a second word, with what it opens. -/
theorem runStep_of_second_nothing {u : State} {w : Word} (hw : w = u.wordAt u.pc) (hp : pickLevel u = none)
    (he : u.pc.getLsbD 0 = false) (hm : InMemory u .word u.pc) (hs : u.site (u.pc + 2) = .nothing)
    (hread : readsSecondWord u.par.model w = true) (hb : BlockInMemory (abortedSecondWord w u) .abort) :
    ∃ info ret t, runStep u = .next t ∧ SavedPc u w ret ∧ EntryDone .abort info ret (abortedSecondWord w u) t ∧
      info &&& 0xFFFE = u.pc + 2 := by
  have hbus := busAddress_even (even_add_two he)
  have hf := fetch_of_memory he hm
  rw [← hw, fetchSecond_of_nothing hread (by rwa [hbus]), hbus] at hf
  obtain ⟨hi, -⟩ := abortedSecondWord_keeps w u
  obtain ⟨info, ret, t, ht, hret, hd, ha, -⟩ := raiseAbort_done hi.2.1 hb
  exact ⟨info, ret, t, (runStep_of_stop hp hf).trans ht, hret, hd, ha.trans hbus⟩

/-- Settles O12: by the transfer that fails, of the first or of the second word. -/
theorem fetchStopsOrAborts : Obligations.FetchStopsOrAborts := by
  intro s
  dsimp only
  intro hr hp
  rw [step_of_running hr]
  generalize arrive s = u at *
  refine ⟨fun ho => ?_, fun he hs hb => ?_, fun he hm hs hb => ?_⟩
  · exact runStep_of_stop hp (by simp only [fetch, ho, if_true])
  · have hbus := busAddress_even he
    have hf : fetch u = .stop (raiseAbort u.pc none u.pc .word u) := by
      simp only [fetch, he, Bool.false_eq_true, if_false, busRead_nothing (hbus.symm ▸ hs), hbus]
    obtain ⟨info, t, ht, hd, ha⟩ := raiseAbort_first_done hb
    refine ⟨info, _, t, (runStep_of_stop hp hf).trans ht, hd, ha.trans hbus, fun h => ?_, fun h => ?_⟩ <;>
      rw [trapSavedPc, h]
  generalize hw : u.wordAt u.pc = w
  refine ⟨fun cls wd op ar m hgr hext => ?_, fun hsec hlow hkey => ?_⟩
  · have hread : readsSecondWord u.par.model w = true := by
      rw [hgr, readsSecondWord_iff, secondWord_gr]
      exact ⟨Option.isSome_iff_ne_none.mpr hext, fun h => by cases cls <;> simp [grCode, memCode, GrClass.bits] at h⟩
    have hsame := abortedOperation_same op (autoStep cls) m.xr u
    rw [← abortedSecondWord_gr cls wd op ar m u, ← hgr, opIndicators_eq] at hsame
    obtain ⟨-, -, -, ⟨⟨-, hpar, -⟩, hk, -⟩, -⟩ := id hsame
    obtain ⟨info, ret, t, ht, hret, hd, ha⟩ :=
      runStep_of_second_nothing hw.symm hp he hm hs hread (hb.of_same hpar hk)
    exact ⟨info, ret, _, t, ht, hret, hd, ha, hsame⟩
  · have hread := readsSecondWord_iff.mpr ⟨hsec, fun ⟨hc, h⟩ => hlow hc (by simpa using h)⟩
    obtain ⟨hi, -, hdev, hst, hmem, -, hk⟩ := abortedSecondWord_keeps w u
    have hbv : BlockInMemory (abortedSecondWord w u) .abort := by
      by_cases hjkey : fieldC w ≠ 0 ∨ fieldOp w = 6
      · exact hb.of_same hi.2.1 (hk hjkey)
      · obtain ⟨hc, hop⟩ := not_or.mp hjkey
        exact (hkey (not_not.mp hc) hop (abortedSecondWord w u).key).of_same hi.2.1 rfl
    obtain ⟨info, ret, t, ht, hret, hd, ha⟩ := runStep_of_second_nothing hw.symm hp he hm hs hread hbv
    exact ⟨info, ret, _, t, ht, hret, hd, ha, hi, hk, hdev, hst, hmem⟩

/-! ## The status register's instructions -/

/-- A word written changes its two bytes. -/
theorem putWord_same (s : State) (a v : Word) : SameBut [] 0 (bytesOfWord a) s (s.putWord a v) := by
  refine ⟨fun _ _ _ => rfl, rfl, fun b hb => ?_, ⟨⟨rfl, rfl, rfl⟩, rfl, rfl⟩, rfl, rfl⟩
  have h0 := hb (a &&& 0xFFFE) (by simp [bytesOfWord])
  have h1 := hb ((a &&& 0xFFFE) + 1) (by simp [bytesOfWord])
  have he := evenWord_toNat a
  have hlt := (a &&& 0xFFFE).isLt
  have hnext : ((a &&& 0xFFFE) + 1).toNat = (a &&& 0xFFFE).toNat + 1 := by
    rw [BitVec.toNat_add]
    show ((a &&& 0xFFFE).toNat + 1) % 65536 = _
    omega
  rw [State.byteAt_putWord, if_neg (hnext ▸ h1), if_neg h0]

/-- The start of an instruction changes the program counter only. -/
theorem startOf_same (code : Code) (s : State) : SameBut [] 0 [] s (startOf code s) :=
  ⟨fun _ h0 _ => startOf_reg _ _ _ h0, rfl, fun _ _ => rfl, ⟨⟨rfl, rfl, rfl⟩, rfl, rfl⟩, rfl, rfl⟩

/-- Settles O35: one write of the status word, bit A set. -/
theorem statusStoreCompletes : Obligations.StatusStoreCompletes := by
  intro md d s a ha
  have hb : busWrite .word a s.statusWord (startOf (directCode .stsm md d) s) =
      .ok () ((startOf (directCode .stsm md d) s).putWord a s.statusWord) := busWrite_memory ha
  refine ⟨(startOf (directCode .stsm md d) s).putWord a s.statusWord, ?_, State.wordAt_putWord_self .., rfl,
    ((startOf_same _ s).mono (by simp) (by simp) (by simp)).trans (putWord_same ..)⟩
  show storeStatus md d s = _
  unfold storeStatus
  exact execute_of_ok hb

theorem loadStatusWord_eq (v : Word) (s : State) :
    loadStatusWord v s = if v.getLsbD 11 then .ok () (s.setSt v) else .refuse .activeBitCleared := rfl

/-- An instruction that loads a status word completes or refuses by bit A (R40). -/
theorem execute_of_statusWord {code : Code} {body : Ctx → State → Res Unit} {s t : State} {v : Word}
    (h : body (contextOf code s) (startOf code s) = if v.getLsbD 11 then .ok () t else .refuse .activeBitCleared) :
    execute code body s = if v.getLsbD 11 then .next t else .refused .activeBitCleared := by
  split at h <;> rename_i hv
  · rw [if_pos hv]; exact execute_of_ok h
  · rw [if_neg hv]; exact execute_of_refuse h

/-- Settles O37: the reads of the words, then the test of bit A. -/
theorem statusLoadsComplete : Obligations.StatusLoadsComplete := by
  refine fun md d s => ⟨fun ha => ?_, fun ha ha2 => ?_⟩
  · show loadStatus md d s = _
    unfold loadStatus
    refine execute_of_statusWord ?_
    rw [busRead_memory (s := startOf _ s) ha, Res.bind_ok, loadStatusWord_eq]
    simp only [State.fetchData, startOf, State.wordAt_setPc]
    by_cases hv : (s.wordAt (directAddress (contextOf (directCode .msts md d) s) md d)).getLsbD 11 = true
    · simp only [hv, if_true]; rfl
    · simp only [hv, if_false, Bool.false_eq_true]; rfl
  · show returnFromInterrupt md d s = _
    unfold returnFromInterrupt
    refine execute_of_statusWord ?_
    rw [busRead_memory (s := startOf _ s) ha, Res.bind_ok, busRead_memory (s := startOf _ s) ha2, Res.bind_ok,
      loadStatusWord_eq]
    simp only [State.fetchData, startOf, State.wordAt_setPc]
    by_cases hv : (s.wordAt (directAddress (contextOf (directCode .retn md d) s) md d)).getLsbD 11 = true
    · simp only [hv, if_true]; rfl
    · simp only [hv, if_false, Bool.false_eq_true]; rfl

end Sys2Proof.Machine

/-! PROOF. The double-length instructions of class B on a pair: transfers, sum and difference. -/

namespace Sys2Proof.Machine

/-! ## What an indicator reads -/

theorem mask_getLsbD (i j : Indicator) : i.mask.getLsbD j.bit = decide (j = i) := by
  cases i <;> cases j <;> rfl

theorem bit_lt (i : Indicator) : i.bit < 16 := by cases i <;> decide

theorem flag_putFlag (st : Word) (i j : Indicator) (b : Bool) :
    flag (putFlag st i b) j = if j = i then b else flag st j := by
  have hm := mask_getLsbD i j
  have hj := bit_lt j
  cases b
  · simp only [flag, putFlag, Bool.false_eq_true, if_false, BitVec.getLsbD_and, BitVec.getLsbD_not, hm, hj]
    by_cases h : j = i <;> simp [h]
  · simp only [flag, putFlag, if_true, BitVec.getLsbD_or, hm]
    by_cases h : j = i <;> simp [h]

@[simp] theorem flag_putFlag_self (st : Word) (i : Indicator) (b : Bool) : flag (putFlag st i b) i = b := by
  rw [flag_putFlag, if_pos rfl]

/-- An indicator outside the mask is kept. -/
theorem SameBitsBut.flag_eq {mask st st' : Word} (h : SameBitsBut mask st st') {i : Indicator}
    (hm : mask.getLsbD i.bit = false) : flag st' i = flag st i := sameBitsBut_iff.mp h i.bit (bit_lt i) hm

theorem flag_stickyOv (st : Word) (ov : Bool) : flag (stickyOv st ov) .ov = (flag st .ov || ov) := by
  cases ov
  · rw [Bool.or_false]; rfl
  · rw [Bool.or_true]; exact flag_putFlag_self st .ov true

/-- What `setNZO2` writes is NG, ZE and OD of the pair (R51). -/
theorem nzo2Of_setNZO2 (x : DoubleWord) (st : Word) : Nzo2Of x (setNZO2 st x.h x.l) := by
  refine ⟨?_, ?_, flag_putFlag_self ..⟩
  · simp only [setNZO2, flag_putFlag, reduceCtorEq, if_false, if_true]
  · simp only [setNZO2, flag_putFlag, reduceCtorEq, if_false, if_true]
    exact Bool.eq_iff_iff.mpr (by simp)

/-! ## A pair of registers -/

/-- The registers of a pair: not register 0 or 1, and two. -/
theorem isPair_regs {ar : Reg} (h : isPair ar = true) :
    ar ≠ .r0 ∧ ar ≠ .r1 ∧ pairHigh ar ≠ .r0 ∧ pairLow ar ≠ .r0 ∧ pairHigh ar ≠ pairLow ar := by
  cases ar with
  | r2 | r4 | r6 => decide
  | r0 | r1 | r3 | r5 | r7 => cases h

theorem setPair_reg (ar : Reg) (x : DoubleWord) (s : State) (r : Reg) :
    (setPair ar x s).reg r = if r = pairLow ar then x.l else if r = pairHigh ar then x.h else s.reg r := by
  simp only [setPair, State.reg_setReg]

theorem pairOf_setPair {ar : Reg} (h : isPair ar = true) (x : DoubleWord) (s : State) : pairOf ar (setPair ar x s) = x := by
  obtain ⟨-, -, -, -, hne⟩ := isPair_regs h
  simp only [pairOf, setPair_reg, if_neg hne, if_true]

theorem pairOf_setPairNZO {ar : Reg} (h : isPair ar = true) (x : DoubleWord) (s : State) :
    pairOf ar (setPairNZO ar x s) = x := pairOf_setPair h ..

theorem setPairNZO_st (ar : Reg) (x : DoubleWord) (s : State) : (setPairNZO ar x s).st = setNZO2 s.st x.h x.l := rfl

theorem setPairNZO_pc {ar : Reg} (h : isPair ar = true) (x : DoubleWord) (s : State) : (setPairNZO ar x s).pc = s.pc := by
  obtain ⟨-, -, hh, hl, -⟩ := isPair_regs h
  rw [State.pc_eq_reg, setPairNZO, setPair_reg, if_neg hl.symm, if_neg hh.symm]; rfl

/-- Writing the status register changes only its bits. -/
theorem setSt_same {mask v : Word} {s : State} (h : SameBitsBut mask s.st v) : SameBut [] mask [] s (s.setSt v) :=
  ⟨fun _ _ _ => rfl, h, fun _ _ => rfl, ⟨⟨rfl, rfl, rfl⟩, rfl, rfl⟩, rfl, rfl⟩

/-- Writing a pair with its indicators changes the pair and NG, ZE, OD only. -/
theorem setPairNZO_same (ar : Reg) (x : DoubleWord) (s : State) :
    SameBut [pairHigh ar, pairLow ar] 0x0700 [] s (setPairNZO ar x s) := by
  refine ⟨fun r _ hr => ?_, setNZO2_same .., fun _ _ => rfl, ⟨⟨rfl, rfl, rfl⟩, rfl, rfl⟩, rfl, rfl⟩
  obtain ⟨hh, hl⟩ : r ≠ pairHigh ar ∧ r ≠ pairLow ar := by simpa using hr
  rw [setPairNZO, setPair_reg, if_neg hl, if_neg hh]; rfl

/-! ## Address development without a device access -/

/-- Nothing has changed, or a device was accessed. -/
def Quiet (s t : State) : Prop := t = s ∨ s.deviceLog.length < t.deviceLog.length

theorem Quiet.trans {s t u : State} (h : Quiet s t) (g : Quiet t u) : Quiet s u := by
  rcases h with rfl | h
  · exact g
  · rcases g with rfl | g
    · exact .inr h
    · exact .inr (h.trans g)

theorem Quiet.eq {s t : State} (h : Quiet s t) (hl : t.deviceLog = s.deviceLog) : t = s :=
  h.resolve_right fun hlt => by rw [hl] at hlt; exact lt_irrefl _ hlt

theorem depositCells_log (cs : List Host.Cell) : ∀ s : State, (s.depositCells cs).deviceLog = s.deviceLog := by
  induction cs with
  | nil => exact fun _ => rfl
  | cons c cs ih =>
    intro s
    refine (ih (s.depositCell c)).trans ?_
    unfold State.depositCell
    split <;> rfl

theorem deviceAccess_log (acc : DeviceAccess) (s : State) : (deviceAccess acc s).2.deviceLog = acc :: s.deviceLog := by
  unfold deviceAccess
  split <;> dsimp only <;> split <;> first | rfl | exact depositCells_log ..

theorem busRead_quiet {wd : Width} {a v : Word} {s t : State} (h : busRead wd a s = .ok v t) : Quiet s t := by
  rcases busRead_ok h with ⟨-, -, rfl⟩ | ⟨w, -, hd, -⟩
  · exact .inl rfl
  · have hlog := deviceAccess_log ⟨busAddress wd a, wd, s.key, none⟩ s
    rw [hd] at hlog
    exact .inr (by rw [hlog]; exact Nat.lt_succ_self _)

theorem indirectChain_quiet (n : Nat) : ∀ {t a : Word} {s u : State}, indirectChain n t s = .ok a u → Quiet s u := by
  induction n with
  | zero =>
    intro t a s u h
    unfold indirectChain at h
    split at h <;> cases h
    exact .inl rfl
  | succ n ih =>
    intro t a s u h
    unfold indirectChain at h
    split at h
    · obtain ⟨b, v, h1, h2⟩ := Res.bind_eq_ok.mp h
      exact (busRead_quiet h1).trans (ih h2)
    · cases h; exact .inl rfl

theorem resolveIndirect_quiet {wd : Width} {ind : Bool} {d a : Word} {s u : State}
    (h : resolveIndirect wd ind d s = .ok a u) : Quiet s u := by
  unfold resolveIndirect at h
  split at h
  · obtain ⟨b, v, h1, h2⟩ := Res.bind_eq_ok.mp h
    cases wd
    · exact (busRead_quiet h1).trans (indirectChain_quiet _ h2)
    · cases h2; exact busRead_quiet h1
  · cases h; exact .inl rfl

theorem effectiveAddress_quiet {c : Ctx} {wd : Width} {m : MemOp} {s t : State} {a : Word}
    (h : effectiveAddress c .none wd m s = .ok a t) : Quiet s t := by
  unfold effectiveAddress at h
  split at h
  · cases h
  · obtain ⟨b, u, h1, h2⟩ := Res.bind_eq_ok.mp h
    cases h2
    exact resolveIndirect_quiet h1

/-! ## A class B instruction that completes -/

section
variable {op : FixedOp} {ar : Reg} {m : MemOp} {s s1 t : State} {a : Word} {mask : Word} {bytes : List Word}

/-- The address is developed with the registers, the status and the control state as they are. -/
theorem addressed_reg {code : Code} (he : effectiveAddress (contextOf code s) .none .word m (startOf code s) = .ok a s1)
    {r : Reg} (h : r ≠ .r0) : s1.reg r = s.reg r := by
  obtain ⟨-, -, -, -, hreg⟩ := effectiveAddress_keeps he
  rw [hreg r (.inl rfl), startOf_reg _ _ _ h]

theorem addressed_pc {code : Code} (he : effectiveAddress (contextOf code s) .none .word m (startOf code s) = .ok a s1) :
    s1.pc = (contextOf code s).next := by
  obtain ⟨-, -, -, -, hreg⟩ := effectiveAddress_keeps he
  exact (hreg .r0 (.inl rfl)).trans (State.pc_setPc ..)

theorem addressed_st {code : Code} (he : effectiveAddress (contextOf code s) .none .word m (startOf code s) = .ok a s1) :
    s1.st = s.st := (effectiveAddress_keeps he).2.1

theorem addressed_pairOf {code : Code}
    (he : effectiveAddress (contextOf code s) .none .word m (startOf code s) = .ok a s1) (h : isPair ar = true) :
    pairOf ar s1 = pairOf ar s := by
  obtain ⟨-, -, hh, hl, -⟩ := isPair_regs h
  rw [pairOf, pairOf, addressed_reg he hh, addressed_reg he hl]

/-- What the body keeps of the state in which M is developed is the frame of the instruction (R432). -/
theorem fixedFrame_of_body {code : Code}
    (he : effectiveAddress (contextOf code s) .none .word m (startOf code s) = .ok a s1)
    (h : SameBut [pairHigh ar, pairLow ar] mask bytes s1 t) : FixedFrame ar mask bytes s t := by
  obtain ⟨hregs, hst, hmem, ⟨⟨p1, p2, p3⟩, p4, p5⟩, -, hlog⟩ := h
  obtain ⟨-, -, ⟨⟨q1, q2, q3⟩, q4, q5⟩, -, -⟩ := effectiveAddress_keeps he
  refine ⟨fun r h0 hr => (hregs r h0 hr).trans (addressed_reg he h0), by rwa [addressed_st he] at hst,
    ⟨⟨p1.trans q1, p2.trans q2, p3.trans q3⟩, p4.trans q4, p5.trans q5⟩, fun hq => ?_⟩
  obtain rfl := (effectiveAddress_quiet he).eq (hlog.symm.trans hq)
  exact hmem

/-- A class B instruction whose address is developed and whose body completes (R431, R432). -/
theorem fixedPoint_next {ok : Reg → Bool} {body : Word → State → Res Unit} (hs : s.par.model.isScientific = true)
    (h0 : ar ≠ .r0) (h1 : ar ≠ .r1) (hok : ok ar = true)
    (he : effectiveAddress (contextOf (fixedCode op ar m) s) .none .word m (startOf (fixedCode op ar m) s) = .ok a s1)
    (hb : body a s1 = .ok () t) : fixedPoint op ok ar m body s = .next t := by
  obtain ⟨hn, -⟩ := effectiveAddress_keeps he
  unfold fixedPoint
  rw [executeOn_of_implemented hs]
  refine execute_of_ok ?_
  unfold onAccumulator
  rw [if_neg (by simp [h0, h1, hn]), if_pos hok]
  dsimp only
  rw [he, Res.bind_ok, hb]; rfl

theorem readDouble_memory (h : WordsInMemory s [a, a + 2]) : readDouble a s = .ok ⟨s.wordAt a, s.wordAt (a + 2)⟩ s := by
  obtain ⟨h0, h2⟩ : InMemory s .word a ∧ InMemory s .word (a + 2) := by simpa [WordsInMemory] using h
  rw [readDouble, busRead_memory h0, Res.bind_ok, busRead_memory h2, Res.bind_ok]; rfl

end

/-! ## DLOD and DSTA -/

/-- The word at M + 2 is another one than the word at M. -/
theorem next_word_ne (a : Word) : (a + 2) &&& 0xFFFE ≠ a &&& 0xFFFE := by
  intro h
  have hbit : (a + 2).getLsbD 1 = a.getLsbD 1 := by
    simpa using congrArg (BitVec.getLsbD · 1) h
  rw [BitVec.getLsbD, BitVec.getLsbD, Nat.testBit_eq_decide_div_mod_eq, Nat.testBit_eq_decide_div_mod_eq,
    decide_eq_decide, BitVec.toNat_add] at hbit
  simp only [BitVec.reduceToNat, Nat.reducePow] at hbit
  omega

theorem busWrite_word_memory {a v : Word} {s : State} (h : InMemory s .word a) :
    busWrite .word a v s = .ok () (s.putWord a v) := busWrite_memory h

/-- The pairs, and the two registers of each. -/
theorem isPair_iff (r : Reg) : isPair r = true ↔ r ∈ [Reg.r2, .r4, .r6] := by
  cases r <;> decide

/-- Settles O44: the transfers of the two words, between memory and the pair. -/
theorem doubleTransfersComplete : Obligations.DoubleTransfersComplete := by
  intro ar m s s1 a hs hp
  obtain ⟨h0, h1, -, -, -⟩ := isPair_regs hp
  refine ⟨isPair_iff, ?_, fun he hm => ?_, fun he hm => ?_⟩
  · simp only [List.forall_mem_cons]
    exact ⟨⟨⟨rfl, rfl, fun _ => rfl⟩, ⟨rfl, rfl, fun _ => rfl⟩, by simp⟩,
      ⟨⟨rfl, rfl, fun _ => rfl⟩, ⟨rfl, rfl, fun _ => rfl⟩, by simp⟩,
      ⟨⟨rfl, rfl, fun _ => rfl⟩, ⟨rfl, rfl, fun _ => rfl⟩, by simp⟩, by simp⟩
  · refine ⟨setPairNZO ar ⟨s1.wordAt a, s1.wordAt (a + 2)⟩ s1, fixedPoint_next hs h0 h1 hp he ?_, pairOf_setPairNZO hp ..,
      ?_, (setPairNZO_pc hp ..).trans (addressed_pc he), fixedFrame_of_body he (setPairNZO_same ..)⟩
    · rw [readDouble_memory hm, Res.bind_ok]
    · rw [pairOf_setPairNZO hp]; exact nzo2Of_setNZO2 ..
  · obtain ⟨ha, ha2⟩ : InMemory s1 .word a ∧ InMemory s1 .word (a + 2) := by simpa [WordsInMemory] using hm
    have hx := addressed_pairOf he hp
    generalize hu : (s1.putWord a (pairOf ar s1).h).putWord (a + 2) (pairOf ar s1).l = u
    have hsame : SameBut [] 0 (bytesOfWord a ++ bytesOfWord (a + 2)) s1 u := hu ▸
      ((putWord_same ..).mono (by simp) (by simp) (by simp)).trans ((putWord_same ..).mono (by simp) (by simp) (by simp))
    have hpair : pairOf ar u = pairOf ar s1 := hu ▸ rfl
    have hpc : u.pc = s1.pc := hu ▸ rfl
    refine ⟨u.setSt (setNZO2 u.st (pairOf ar s1).h (pairOf ar s1).l), fixedPoint_next hs h0 h1 hp he ?_, ?_, ?_,
      hpair.trans hx, ?_, hpc.trans (addressed_pc he), fixedFrame_of_body he ?_⟩
    · dsimp only
      rw [busWrite_word_memory ha, Res.bind_ok, busWrite_word_memory (ha2.of_site (t := s1.putWord a (pairOf ar s1).h) fun _ => rfl), Res.bind_ok, hu]; rfl
    · rw [State.wordAt_setSt, ← hu, State.wordAt_putWord_ne _ _ _ _ (next_word_ne a).symm, State.wordAt_putWord_self, hx]
    · rw [State.wordAt_setSt, ← hu, State.wordAt_putWord_self, hx]
    · rw [← hx]; exact nzo2Of_setNZO2 ..
    · exact (hsame.mono (by simp) (by simp) (by simp)).trans
        ((setSt_same (setNZO2_same ..)).mono (by simp) (by simp) (by simp))

/-! ## DADD and DSUB -/

/-- The low word without bit 15, as a number. -/
theorem low15_toNat (l : Word) : (l.extractLsb' 0 15).toNat = l.toNat % 32768 := by
  simp [BitVec.extractLsb'_toNat]

theorem bits31_toNat (x : DoubleWord) : (bits31 x).toNat = x.h.toNat * 32768 + x.l.toNat % 32768 := by
  have hl := (x.l.extractLsb' 0 15).isLt
  rw [bits31, BitVec.toNat_append, ← Nat.shiftLeft_add_eq_or_of_lt hl, Nat.shiftLeft_eq, low15_toNat]

theorem dbits_eq (x : DoubleWord) : dbits x = (bits31 x).toNat := by
  rw [dbits, bits31_toNat, low15_toNat]

theorem fixSign_low15 (x : DoubleWord) : (fixSign x).l.extractLsb' 0 15 = x.l.extractLsb' 0 15 := by
  unfold fixSign; grind

/-- Adjusting S' keeps the number (R50). -/
theorem pairNumber_fixSign (x : DoubleWord) : pairNumber (fixSign x) = pairNumber x := by
  simp only [pairNumber, ← low15_toNat, fixSign_low15]; rfl

theorem signAdjusted_fixSign (x : DoubleWord) : SignAdjusted (fixSign x) := by
  unfold SignAdjusted
  rw [fixSign_low15]
  simp only [fixSign, BitVec.getLsbD_append]
  simp [bne, beq_eq_decide, decide_not]

/-- The pair of a number has that number modulo 2^31 (R51). -/
theorem pairNumber_doubleOf (n : Int) : (2 ^ 31 : Int) ∣ pairNumber (doubleOf n) - n := by
  have hlow : ((BitVec.ofInt 16 (n % 32768)).toNat % 32768 : Nat) = (n % 32768 : Int) := by
    rw [BitVec.toNat_ofInt]; omega
  obtain ⟨k, hk⟩ := Int.dvd_bmod_sub_self (x := n / 32768) (m := 65536)
  refine ⟨k, ?_⟩
  rw [doubleOf, pairNumber_fixSign]
  simp only [pairNumber, BitVec.toInt_ofInt, Nat.reducePow, hlow]
  omega

/-- Nothing borrowed is a carry out of the complement's sum (R442, R443, D5). -/
theorem carry_complement {x y : Nat} (hy : y < 2 ^ 31) : 2 ^ 31 ≤ x + (2 ^ 31 - 1 - y) + 1 ↔ y ≤ x := by omega

section
variable {ar : Reg} {m : MemOp} {s s1 : State} {a : Word} {code : Code}

/-- What a sum or difference n with its carry leaves (R442, R443). -/
theorem doubleSum_done (hp : isPair ar = true)
    (he : effectiveAddress (contextOf code s) .none .word m (startOf code s) = .ok a s1) (n : Int) (carry : Bool) :
    let t := doubleSum ar n carry s1
    (2 ^ 31 : Int) ∣ pairNumber (pairOf ar t) - n ∧ SignAdjusted (pairOf ar t) ∧ flag t.st .cy = carry ∧
      flag t.st .ov = (flag s.st .ov || outOfRange 31 n) ∧ Nzo2Of (pairOf ar t) t.st ∧ t.pc = (contextOf code s).next ∧
      FixedFrame ar 0x070C [] s t := by
  intro t
  generalize hst : stickyOv (putFlag s1.st .cy carry) (outOfRange 31 n) = st
  have hsame : SameBitsBut 0x070C s1.st st :=
    hst ▸ ((putFlag_same ..).mono (by decide)).trans ((stickyOv_same ..).mono (by decide))
  have ht : t = setPairNZO ar (doubleOf n) (s1.setSt st) := hst ▸ rfl
  have hpair : pairOf ar t = doubleOf n := ht ▸ pairOf_setPairNZO hp ..
  have hflag : ∀ i : Indicator, (0x0700 : Word).getLsbD i.bit = false → flag t.st i = flag st i := fun i hi =>
    ht ▸ (setNZO2_same ..).flag_eq hi
  rw [hpair]
  refine ⟨pairNumber_doubleOf n, signAdjusted_fixSign _, ?_, ?_, ht ▸ nzo2Of_setNZO2 .., ?_, fixedFrame_of_body he ?_⟩
  · rw [hflag .cy (by decide), ← hst, (stickyOv_same ..).flag_eq (by decide), flag_putFlag_self]
  · rw [hflag .ov (by decide), ← hst, flag_stickyOv, (putFlag_same ..).flag_eq (by decide), addressed_st he]
  · have hpc : t.pc = s1.pc := ht ▸ setPairNZO_pc hp (doubleOf n) (s1.setSt st)
    exact hpc.trans (addressed_pc he)
  · exact ht ▸ ((setSt_same hsame).mono (by simp) (by decide) (by simp)).trans
      ((setPairNZO_same ar (doubleOf n) (s1.setSt st)).mono (by simp) (by decide) (by simp))

end

/-- Settles O45: one lemma for the sum of two numbers and their carry, used for each. -/
theorem doubleArithmeticCompletes : Obligations.DoubleArithmeticCompletes := by
  intro ar m s s1 a hs hp x y
  obtain ⟨h0, h1, -, -, -⟩ := isPair_regs hp
  refine ⟨fun he hm => ?_, fun he hm => ?_⟩
  · refine ⟨doubleSum ar (pairNumber x + pairNumber y) (decide (2 ^ 31 ≤ (bits31 x).toNat + (bits31 y).toNat)) s1,
      fixedPoint_next hs h0 h1 hp he ?_, doubleSum_done hp he ..⟩
    rw [readDouble_memory hm, Res.bind_ok]
    simp only [addressed_pairOf he hp, dval_eq, dbits_eq]; rfl
  · refine ⟨doubleSum ar (pairNumber x - pairNumber y) (decide ((bits31 y).toNat ≤ (bits31 x).toNat)) s1,
      fixedPoint_next hs h0 h1 hp he ?_, doubleSum_done hp he ..⟩
    rw [readDouble_memory hm, Res.bind_ok]
    simp only [addressed_pairOf he hp, dval_eq, dbits_eq, carry_complement (bits31 _).isLt]; rfl

end Sys2Proof.Machine

/-! PROOF. The double normalizes on a pair. -/

namespace Sys2Proof.Machine

/-! ## Bits and words as numbers -/

theorem toNat_append_add {n m : Nat} (x : BitVec n) (y : BitVec m) : (x ++ y).toNat = x.toNat * 2 ^ m + y.toNat := by
  rw [BitVec.toNat_append, ← Nat.shiftLeft_add_eq_or_of_lt y.isLt, Nat.shiftLeft_eq]

theorem getLsbD_toNat {w : Nat} (x : BitVec w) (i : Nat) : (x.getLsbD i).toNat = x.toNat / 2 ^ i % 2 :=
  Nat.toNat_testBit ..

theorem getLsbD_eq_decide {w : Nat} (x : BitVec w) (i : Nat) : x.getLsbD i = decide (x.toNat / 2 ^ i % 2 = 1) :=
  Nat.testBit_eq_decide_div_mod_eq

theorem extract_toNat {w : Nat} (x : BitVec w) (i n : Nat) : (x.extractLsb' i n).toNat = x.toNat / 2 ^ i % 2 ^ n := by
  rw [BitVec.extractLsb'_toNat, Nat.shiftRight_eq_div_pow]

/-- A word's signed number is its unsigned one, less 2^16 where bit 15 is set. -/
theorem word_toInt (v : Word) : v.toInt = v.toNat - 65536 * (v.toNat / 32768 : Nat) := by
  have := v.isLt
  rw [BitVec.toInt_eq_toNat_cond]
  split <;> omega

theorem bits32_toNat (x : DoubleWord) : (bits32 x).toNat = x.h.toNat * 65536 + x.l.toNat := by
  simp only [bits32, toNat_append_add, Nat.reducePow]

/-- A pair's number is one of 31 bits (R50). -/
theorem pairNumber_range (x : DoubleWord) : -(2 ^ 30) ≤ pairNumber x ∧ pairNumber x < 2 ^ 30 := by
  have := x.h.isLt
  rw [pairNumber, word_toInt]
  omega

/-! ## The one-bit steps -/

/-- Where the sign and the next bit are the same, a step to the left doubles the number. -/
theorem pairNumber_arithLeft {x : DoubleWord} (h : x.h.getLsbD 15 = x.h.getLsbD 14) :
    pairNumber (arithLeft x) = pairNumber x * 2 := by
  have hh := x.h.isLt
  rw [getLsbD_eq_decide, getLsbD_eq_decide, decide_eq_decide] at h
  simp only [pairNumber, word_toInt, arithLeft, toNat_append_add, BitVec.toNat_ofBool, getLsbD_toNat, extract_toNat,
    BitVec.reduceToNat]
  omega

/-- Where the last bit is 0, a step to the right halves the number. -/
theorem pairNumber_arithRight {x : DoubleWord} (h : x.l.getLsbD 0 = false) :
    pairNumber x = pairNumber (arithRight x) * 2 := by
  have hh := word_toInt x.h
  rw [getLsbD_eq_decide, decide_eq_false_iff_not] at h
  simp only [pairNumber, arithRight, toNat_append_add, BitVec.toNat_ofBool, getLsbD_toNat, extract_toNat, BitVec.toInt_sshiftRight,
    Int.shiftRight_eq_div_pow]
  omega

/-- Where the first bit is 0, a step to the left doubles the 32 bits. -/
theorem bits32_logicLeft {x : DoubleWord} (h : x.h.getLsbD 15 = false) :
    (bits32 (logicLeft x false)).toNat = (bits32 x).toNat * 2 := by
  have hh := x.h.isLt
  have hl := x.l.isLt
  rw [getLsbD_eq_decide, decide_eq_false_iff_not] at h
  simp only [bits32_toNat, logicLeft, toNat_append_add, BitVec.toNat_ofBool, getLsbD_toNat,
    extract_toNat, Bool.toNat_false, Nat.pow_zero, Nat.div_one]
  omega

/-- Where the last bit is 0, a step to the right halves the 32 bits. -/
theorem bits32_logicRight {x : DoubleWord} (h : x.l.getLsbD 0 = false) :
    (bits32 x).toNat = (bits32 (logicRight x false)).toNat * 2 := by
  have hh := x.h.isLt
  have hl := x.l.isLt
  rw [getLsbD_eq_decide, decide_eq_false_iff_not] at h
  simp only [bits32_toNat, logicRight, toNat_append_add, BitVec.toNat_ofBool, getLsbD_toNat,
    extract_toNat, Bool.toNat_false, Nat.pow_zero, Nat.div_one]
  omega

/-! ## The loop -/

/-- What holds at the start and is kept by each step holds at the end, which is a stop or the limit. -/
theorem normalizeLoop_invariant {α : Type} {stop : α → Bool} {step : α → α} {P : Nat → α → Prop}
    (hstep : ∀ n x, P n x → stop x = false → P (n + 1) (step x)) (fuel : Nat) :
    ∀ {x y : α} {n m : Nat}, P n x → normalizeLoop stop step fuel x n = (y, m) →
      P m y ∧ m ≤ n + fuel ∧ (stop y = true ∨ m = n + fuel) := by
  induction fuel with
  | zero =>
    rintro x y n m h ⟨⟩
    exact ⟨h, le_rfl, .inr rfl⟩
  | succ fuel ih =>
    intro x y n m h hl
    unfold normalizeLoop at hl
    split at hl
    · cases hl
      exact ⟨h, Nat.le_add_right .., .inl ‹_›⟩
    · rename_i hs
      obtain ⟨hP, hm, hstop⟩ := ih (hstep n x h (Bool.eq_false_iff.mpr hs)) hl
      exact ⟨hP, by omega, hstop.imp_right fun h => by omega⟩

/-- `y` is the pair `x` after n one-bit steps (R397 to R400). -/
def DoubleScaled (op : NormOp) (x : DoubleWord) (n : Nat) (y : DoubleWord) : Prop :=
  match op with
  | .la => pairNumber y = pairNumber x * 2 ^ n
  | .ll => (bits32 y).toNat = (bits32 x).toNat * 2 ^ n
  | .ra => pairNumber x = pairNumber y * 2 ^ n
  | .rl => (bits32 x).toNat = (bits32 y).toNat * 2 ^ n

theorem doubleScaled_zero (op : NormOp) (x : DoubleWord) : DoubleScaled op x 0 x := by
  cases op <;> simp [DoubleScaled]

theorem doubleScaled_step {op : NormOp} {x : DoubleWord} (n : Nat) (y : DoubleWord) (h : DoubleScaled op x n y)
    (hs : normalizeStop2 op y = false) : DoubleScaled op x (n + 1) (normalizeStep2 op y) := by
  cases op with
  | la => exact (pairNumber_arithLeft (by simpa [normalizeStop2] using hs)).trans (by rw [h, pow_succ, mul_assoc])
  | ll => exact (bits32_logicLeft hs).trans (by rw [h, pow_succ, mul_assoc])
  | ra => exact h.trans (by rw [pairNumber_arithRight hs, pow_succ', mul_assoc]; rfl)
  | rl => exact h.trans (by rw [bits32_logicRight hs, pow_succ', mul_assoc]; rfl)

/-- At the limit of 31 steps a pair other than zero has nothing left to shift. -/
theorem normalizeStop2_of_limit {op : NormOp} {x y : DoubleWord} (h : DoubleScaled op x 31 y) (hz : ¬PairZero op x) :
    normalizeStop2 op y = true := by
  have hx := pairNumber_range x
  have hy := pairNumber_range y
  have hbx := (bits32 x).isLt
  have hby := (bits32 y).isLt
  cases op with
  | la | ra =>
    refine absurd ?_ hz
    simp only [DoubleScaled, PairZero] at h ⊢
    omega
  | ll =>
    have h0 : (bits32 x).toNat ≠ 0 := fun e => hz (BitVec.eq_of_toNat_eq e)
    simp only [DoubleScaled] at h
    have := y.l.isLt
    rw [bits32_toNat y] at h
    rw [normalizeStop2, getLsbD_eq_decide, decide_eq_true_eq]
    omega
  | rl =>
    have h0 : (bits32 x).toNat ≠ 0 := fun e => hz (BitVec.eq_of_toNat_eq e)
    simp only [DoubleScaled] at h
    rw [bits32_toNat y] at h
    rw [normalizeStop2, getLsbD_eq_decide, decide_eq_true_eq]
    omega

theorem fixSign_bit0 (x : DoubleWord) : (fixSign x).l.getLsbD 0 = x.l.getLsbD 0 := by
  unfold fixSign; grind

/-- Steps, the stop condition and the adjusted S' are the normalized pair (R397 to R400). -/
theorem doubleNormalized_finish {op : NormOp} {n : Nat} {x y : DoubleWord} (h : DoubleScaled op x n y)
    (hs : normalizeStop2 op y = true) : DoubleNormalized op n x (normalizeFinish op y) := by
  cases op with
  | la => exact ⟨(pairNumber_fixSign y).trans h, bne_iff_ne.mp hs, signAdjusted_fixSign y⟩
  | ll => exact ⟨h, hs⟩
  | ra => exact ⟨h.trans (by rw [normalizeFinish, pairNumber_fixSign]), (fixSign_bit0 y).trans hs, signAdjusted_fixSign y⟩
  | rl => exact ⟨h, hs⟩

/-- The loop normalizes a pair other than zero in at most 31 steps. -/
theorem normalizeLoop_double {op : NormOp} {x y : DoubleWord} {n : Nat} (hz : ¬PairZero op x)
    (h : normalizeLoop (normalizeStop2 op) (normalizeStep2 op) 31 x 0 = (y, n)) :
    n ≤ 31 ∧ DoubleNormalized op n x (normalizeFinish op y) := by
  obtain ⟨hP, hn, hstop⟩ := normalizeLoop_invariant doubleScaled_step 31 (doubleScaled_zero op x) h
  refine ⟨by omega, doubleNormalized_finish hP (hstop.elim id fun e => ?_)⟩
  rw [e] at hP
  exact normalizeStop2_of_limit hP hz

/-! ## The operand zero -/

theorem word_eq_zero_iff (v : Word) : v = 0 ↔ v.toNat = 0 := ⟨fun h => h ▸ rfl, fun h => BitVec.eq_of_toNat_eq h⟩

theorem low15_eq_zero_iff (l : Word) : l.extractLsb' 0 15 = 0 ↔ l.toNat % 32768 = 0 := by
  rw [← low15_toNat]; exact ⟨fun h => h ▸ rfl, fun h => BitVec.eq_of_toNat_eq h⟩

theorem pairNumber_eq_zero_iff (x : DoubleWord) : pairNumber x = 0 ↔ x.h = 0 ∧ x.l.extractLsb' 0 15 = 0 := by
  have := x.h.isLt
  rw [low15_eq_zero_iff, word_eq_zero_iff, pairNumber, word_toInt]
  omega

theorem bits32_eq_zero_iff (x : DoubleWord) : bits32 x = 0 ↔ x.h = 0 ∧ x.l = 0 := by
  rw [word_eq_zero_iff, word_eq_zero_iff, ← BitVec.toNat_inj, bits32_toNat]
  simp only [BitVec.reduceToNat]
  omega

theorem normalizeZero_iff (op : NormOp) (x : DoubleWord) : normalizeZero op x = true ↔ PairZero op x := by
  cases op <;> simp only [normalizeZero, PairZero, pairNumber_eq_zero_iff, bits32_eq_zero_iff, Bool.and_eq_true, beq_iff_eq]

/-- A zero operand is left as zero, S' cleared (D35). -/
theorem normalizeFinish_zero {op : NormOp} {x : DoubleWord} (h : PairZero op x) : normalizeFinish op x = ⟨0, 0⟩ := by
  have hfix (h : pairNumber x = 0) : fixSign x = ⟨0, 0⟩ := by
    obtain ⟨hh, hl⟩ := (pairNumber_eq_zero_iff x).mp h
    simp only [fixSign, hh, hl]; rfl
  have hpair (h : bits32 x = 0) : x = ⟨0, 0⟩ := by
    obtain ⟨hh, hl⟩ := (bits32_eq_zero_iff x).mp h
    cases x; simp_all
  cases op with
  | la | ra => exact hfix h
  | ll | rl => exact hpair h

/-! ## The count -/

section
variable {c : Ctx} {code : Code} {xr : Reg} {n : Nat} {s u : State}

/-- A register read as data in the course of an instruction that has not written it (R27). -/
theorem readsAs_dataReg {r : Reg} (hp : u.par = s.par) (hr : r ≠ .r0 → u.reg r = s.reg r) :
    ReadsAs code r s (dataReg (contextOf code s) r u).1 := by
  by_cases h : r = .r0
  · subst h
    unfold ReadsAs dataReg
    rw [hp]
    cases s.par.pcOperand
    · exact rfl
    · exact rfl
    · trivial
  · rw [dataReg_of_ne _ _ _ h, hr h]
    cases r with
    | r0 => exact absurd rfl h
    | r1 | r2 | r3 | r4 | r5 | r6 | r7 => exact rfl

/-- Adding the count changes register XR and the counter of free values at most. -/
theorem addCount_same (c : Ctx) (xr : Reg) (n : Nat) (s : State) :
    SameBut [xr] 0 [] s (addCount c xr false n s) ∧ (addCount c xr false n s).st = s.st := by
  unfold addCount
  split
  · exact ⟨.refl .., rfl⟩
  · rw [if_neg Bool.false_ne_true]
    have key (v : Word) {t : State} (ht : t = s ∨ t = s.countFree) :
        SameBut [xr] 0 [] s (t.setReg xr v) ∧ (t.setReg xr v).st = s.st := by
      rcases ht with rfl | rfl <;>
        exact ⟨⟨fun r _ hr => State.reg_setReg_ne _ _ _ _ (by simpa using hr), rfl, fun _ _ => rfl,
          ⟨⟨rfl, rfl, rfl⟩, rfl, rfl⟩, rfl, rfl⟩, rfl⟩
    exact key _ (dataReg_state ..)

/-- The count is added to register XR (R391, R392). -/
theorem addCount_reg {r : Reg} (hr : r ≠ .r0) (s : State) :
    (addCount c xr false n s).reg r = if xr = r then s.reg r + BitVec.ofNat 16 n else s.reg r := by
  split
  · rename_i h
    subst h
    unfold addCount
    split
    · rename_i hn; subst hn; exact (BitVec.add_zero _).symm
    · rw [if_neg Bool.false_ne_true, dataReg_of_ne _ _ _ hr]; exact State.reg_setReg_self ..
  · rename_i h
    exact (addCount_same c xr n s).1.1 r hr (by simpa using Ne.symm h)

theorem addCount_pc (h : xr ≠ .r0) (s : State) : (addCount c xr false n s).pc = s.pc := by
  unfold addCount
  split
  · rfl
  · rw [if_neg Bool.false_ne_true, dataReg_of_ne _ _ _ h]; exact State.pc_setReg_ne _ _ _ h

/-- With XR = 0 the count goes to the program counter, read as data (R392, D2). -/
theorem countedPc_addCount (hp : u.par = s.par) (hpc : u.pc = s.pc + 2) :
    CountedPc code n s (addCount (contextOf code s) .r0 false n u) := by
  unfold CountedPc addCount
  split
  · exact hpc
  · rw [if_neg Bool.false_ne_true]
    exact ⟨_, readsAs_dataReg hp fun h => absurd rfl h, State.reg_setReg_self (dataReg (contextOf code s) .r0 u).2 .r0 _⟩

end

/-! ## A double normalize -/

section
variable {op : NormOp} {ar xr : Reg} {s : State}

theorem exec_normalizeDouble : exec (normalizeInstr true op ar xr) s = normalizeDouble op ar xr s := by
  cases op <;> rfl

theorem startOf_pairOf (code : Code) (hp : isPair ar = true) : pairOf ar (startOf code s) = pairOf ar s := by
  obtain ⟨-, -, hh, hl, -⟩ := isPair_regs hp
  rw [pairOf, pairOf, startOf_reg _ _ _ hh, startOf_reg _ _ _ hl]

theorem normalizeDouble_zero (hs : s.par.model.isScientific = true) (hp : isPair ar = true)
    (hz : normalizeZero op (pairOf ar s) = true) :
    normalizeDouble op ar xr s =
      .next (setPairNZO ar (normalizeFinish op (pairOf ar s)) (startOf (normalizeCode true op ar xr) s)) := by
  unfold normalizeDouble
  rw [executeOn_of_implemented hs]
  refine execute_of_ok ?_
  unfold onPair
  rw [if_pos hp]
  dsimp only
  rw [startOf_pairOf _ hp, if_pos hz]

theorem normalizeDouble_nonzero {y : DoubleWord} {n : Nat} (hs : s.par.model.isScientific = true) (hp : isPair ar = true)
    (hz : ¬normalizeZero op (pairOf ar s) = true)
    (hl : normalizeLoop (normalizeStop2 op) (normalizeStep2 op) 31 (pairOf ar s) 0 = (y, n)) :
    normalizeDouble op ar xr s =
      .next (addCount (contextOf (normalizeCode true op ar xr) s) xr false n
        (setPairNZO ar (normalizeFinish op y) (startOf (normalizeCode true op ar xr) s))) := by
  unfold normalizeDouble
  rw [executeOn_of_implemented hs]
  refine execute_of_ok ?_
  unfold onPair
  rw [if_pos hp]
  dsimp only
  rw [startOf_pairOf _ hp, if_neg hz, hl]

end

/-- Settles O28: the loop's invariant and its limit, then the pair and the count written. -/
theorem doubleNormalizesComplete : Obligations.DoubleNormalizesComplete := by
  intro op ar xr s hs hp x
  obtain ⟨-, -, hh, hl, -⟩ := isPair_regs hp
  generalize hcode : normalizeCode true op ar xr = code
  have hset (y : DoubleWord) : SameBut [pairHigh ar, pairLow ar] 0x0700 [] s (setPairNZO ar y (startOf code s)) :=
    ((startOf_same ..).mono (by simp) (by simp) (by simp)).trans (setPairNZO_same ..)
  have hpc (y : DoubleWord) : (setPairNZO ar y (startOf code s)).pc = s.pc + 2 :=
    (setPairNZO_pc hp ..).trans (hcode ▸ State.pc_setPc ..)
  rw [exec_normalizeDouble]
  by_cases hz : PairZero op x
  · refine ⟨_, normalizeDouble_zero hs hp ((normalizeZero_iff ..).mpr hz), fun _ => ?_, fun h => absurd hz h⟩
    rw [normalizeFinish_zero hz, hcode]
    exact ⟨pairOf_setPairNZO hp .., nzo2Of_setNZO2 .., hpc _, hset _⟩
  · obtain ⟨⟨r, n⟩, hloop⟩ : ∃ p, normalizeLoop (normalizeStop2 op) (normalizeStep2 op) 31 x 0 = p := ⟨_, rfl⟩
    obtain ⟨hn, hnorm⟩ := normalizeLoop_double hz hloop
    refine ⟨_, normalizeDouble_nonzero hs hp (mt (normalizeZero_iff ..).mp hz) hloop, fun h => absurd h hz, fun _ => ?_⟩
    rw [hcode]
    generalize normalizeFinish op r = y at hnorm ⊢
    have hpair := pairOf_setPairNZO hp y (startOf code s)
    have hst : (setPairNZO ar y (startOf code s)).st = setNZO2 s.st y.h y.l := rfl
    have hpar : (setPairNZO ar y (startOf code s)).par = s.par := rfl
    replace hset := hset y
    replace hpc := hpc y
    generalize setPairNZO ar y (startOf code s) = u at *
    have hhigh : u.reg (pairHigh ar) = y.h := congrArg DoubleWord.h hpair
    have hlow : u.reg (pairLow ar) = y.l := congrArg DoubleWord.l hpair
    obtain ⟨hcount, hst'⟩ := addCount_same (contextOf code s) xr n u
    refine ⟨n, y, hn, hnorm, ?_, ?_, ?_, fun hx => ?_, ?_, fun h => (addCount_pc h _).trans hpc, ?_⟩
    · rw [hst', hst]; exact nzo2Of_setNZO2 ..
    · rw [addCount_reg hh, hhigh]
    · rw [addCount_reg hl, hlow]
    · obtain ⟨h0, hxh, hxl⟩ : xr ≠ .r0 ∧ xr ≠ pairHigh ar ∧ xr ≠ pairLow ar := by simpa using hx
      rw [addCount_reg h0, if_pos rfl, hset.1 xr h0 (by simp [hxh, hxl])]
    · rintro rfl
      exact countedPc_addCount hpar hpc
    · exact (hset.mono (by simp) (by simp) (by simp)).trans (hcount.mono (by simp) (by simp) (by simp))

end Sys2Proof.Machine

/-! PROOF. The bus: program memory read after a write, an access to a device, and the operand read of a load that nothing
answers. -/

namespace Sys2Proof.Machine

/-! ## Writes of program memory -/

/-- A byte written changes that byte. -/
theorem putByte_same (s : State) (a : Word) (v : Byte) : SameBut [] 0 [a] s (s.putByte a.toNat v) :=
  ⟨fun _ _ _ => rfl, rfl, fun b hb => by rw [State.byteAt_putByte, if_neg (hb a List.mem_cons_self)],
    ⟨⟨rfl, rfl, rfl⟩, rfl, rfl⟩, rfl, rfl⟩

/-- A byte widened with zeros is the word's right byte alone (R65). -/
theorem rightByte_setWidth (v : Word) : (rightByte v).setWidth 16 = v &&& 0x00FF := by
  apply BitVec.eq_of_toNat_eq
  have hmask : (v &&& 0x00FF).toNat = v.toNat % 256 := Nat.and_two_pow_sub_one_eq_mod v.toNat 8
  rw [hmask, rightByte, BitVec.toNat_setWidth, extract_toNat]
  omega

/-- The data just written, as far as an access of its width carries them (R66, R67). -/
theorem State.fetchData_putData_self (s : State) (wd : Width) (a v : Word) :
    (s.putData wd a v).fetchData wd a = dataOf wd v := by
  cases wd with
  | word => exact State.wordAt_putWord_self ..
  | byte => rw [putData, fetchData, State.byteAt_putByte, if_pos rfl]; exact rightByte_setWidth v

theorem State.site_putData (s : State) (wd : Width) (a v b : Word) : (s.putData wd a v).site b = s.site b := by
  cases wd <;> rfl

/-- A write of program memory completes, and a read at its address then gives the data written. -/
theorem busRead_busWrite {wd : Width} {a v : Word} {s : State} (h : InMemory s wd a) :
    busWrite wd a v s = .ok () (s.putData wd a v) ∧
      busRead wd a (s.putData wd a v) = .ok (dataOf wd v) (s.putData wd a v) := by
  refine ⟨busWrite_memory h, ?_⟩
  rw [busRead_memory (h.of_site (s.site_putData wd a v)), State.fetchData_putData_self]

/-- Settles O13: the read after the write, then the bytes that the write changes. -/
theorem memoryReadsBack : Obligations.MemoryReadsBack := by
  refine fun s a v => ⟨fun h => ?_, fun h => ?_⟩
  · obtain ⟨hw, hr⟩ := busRead_busWrite (v := v) h
    refine ⟨_, hw, hr, ?_, ?_, putWord_same ..⟩ <;> rw [State.putData, State.byteAt_putWord]
    · rw [if_neg (Nat.succ_ne_self _).symm, if_pos rfl]; rfl
    · rw [if_pos rfl]; rfl
  · obtain ⟨hw, hr⟩ := busRead_busWrite (v := v) h
    refine ⟨_, hw, hr, ?_, putByte_same ..⟩
    rw [State.putData, State.byteAt_putByte, if_pos rfl]; rfl

/-! ## An access to a device -/

theorem site_device {s : State} {a : Word} (h : 0xF000 ≤ a.toNat) : s.site a = .device := if_pos h

section
variable {wd : Width} {a v w : Word} {s t : State}

theorem busRead_answered (hs : s.site (busAddress wd a) = .device)
    (hd : deviceAccess ⟨busAddress wd a, wd, s.key, none⟩ s = (some w, t)) : busRead wd a s = .ok (dataOf wd w) t := by
  simp only [busRead, hs, hd]

theorem busRead_unanswered (hs : s.site (busAddress wd a) = .device)
    (hd : deviceAccess ⟨busAddress wd a, wd, s.key, none⟩ s = (none, t)) :
    busRead wd a s = .abort (busAddress wd a) wd t := by
  simp only [busRead, hs, hd]

theorem busWrite_answered (hs : s.site (busAddress wd a) = .device)
    (hd : deviceAccess ⟨busAddress wd a, wd, s.key, some (dataOf wd v)⟩ s = (some w, t)) :
    busWrite wd a v s = .ok () t := by
  simp only [busWrite, hs, hd]

theorem busWrite_unanswered (hs : s.site (busAddress wd a) = .device)
    (hd : deviceAccess ⟨busAddress wd a, wd, s.key, some (dataOf wd v)⟩ s = (none, t)) :
    busWrite wd a v s = .abort (busAddress wd a) wd t := by
  simp only [busWrite, hs, hd]

end

/-- What another bus master writes changes program memory only. -/
theorem depositCells_setMem (cs : List Host.Cell) : ∀ s : State, ∃ m, s.depositCells cs = s.setMem m := by
  induction cs with
  | nil => exact fun s => ⟨s.mem, rfl⟩
  | cons c cs ih =>
    intro s
    obtain ⟨m, hm⟩ := ih (s.depositCell c)
    refine ⟨m, Eq.trans hm ?_⟩
    unfold State.depositCell
    split <;> rfl

/-- `t` is `s` after an access that a device's script had a reply for: the access is logged, `rest` of the script is left, and
registers, status and control state are as before. -/
def Logged (acc : DeviceAccess) (rest : List DeviceReply) (s t : State) : Prop :=
  t.deviceScript = rest ∧ t.deviceLog = acc :: s.deviceLog ∧ t.regs = s.regs ∧ t.st = s.st ∧ SameControl s t

section
variable {s : State} {rest : List DeviceReply}

/-- The next reply is no answer. -/
theorem deviceAccess_noAnswer (acc : DeviceAccess) (h : s.deviceScript = .noAnswer :: rest) :
    ∃ t, deviceAccess acc s = (none, t) ∧ Logged acc rest s t ∧ SameMemory s t := by
  have hd : deviceAccess acc s = (none, { s with deviceLog := acc :: s.deviceLog, deviceScript := rest }) := by
    simp only [deviceAccess, h]
  exact ⟨_, hd, ⟨rfl, rfl, rfl, rfl, ⟨rfl, rfl, rfl⟩, rfl, rfl⟩, fun _ => rfl⟩

/-- The next reply is an answer, with the memory cells that a block transfer writes. -/
theorem deviceAccess_answer (acc : DeviceAccess) {value : Word} {cs : List Host.Cell}
    (h : s.deviceScript = .answer value cs :: rest) :
    ∃ t, deviceAccess acc s = (some value, t) ∧ Logged acc rest s t ∧ (cs = [] → SameMemory s t) := by
  have hd : deviceAccess acc s =
      (some value, ({ s with deviceLog := acc :: s.deviceLog, deviceScript := rest } : State).depositCells cs) := by
    simp only [deviceAccess, h]
  refine ⟨_, hd, ?_, by rintro rfl _; rfl⟩
  obtain ⟨m, hm⟩ := depositCells_setMem cs { s with deviceLog := acc :: s.deviceLog, deviceScript := rest }
  rw [hm]
  exact ⟨rfl, rfl, rfl, rfl, ⟨rfl, rfl, rfl⟩, rfl, rfl⟩

end

/-- Settles O14: by the next reply of the script, for a read and for a write. -/
theorem deviceAccesses : Obligations.DeviceAccesses := by
  refine fun s wd a v value transfer rest => ⟨site_device, fun hs => ⟨fun h => ⟨?_, ?_⟩, fun h => ⟨?_, ?_⟩⟩⟩
  · obtain ⟨t, hd, hl⟩ := deviceAccess_noAnswer ⟨busAddress wd a, wd, s.key, none⟩ h
    exact ⟨t, busRead_unanswered hs hd, hl⟩
  · obtain ⟨t, hd, hl⟩ := deviceAccess_noAnswer ⟨busAddress wd a, wd, s.key, some (dataOf wd v)⟩ h
    exact ⟨t, busWrite_unanswered hs hd, hl⟩
  · obtain ⟨t, hd, hl⟩ := deviceAccess_answer ⟨busAddress wd a, wd, s.key, none⟩ h
    exact ⟨t, busRead_answered hs hd, hl⟩
  · obtain ⟨t, hd, hl⟩ := deviceAccess_answer ⟨busAddress wd a, wd, s.key, some (dataOf wd v)⟩ h
    exact ⟨t, busWrite_answered hs hd, hl⟩

/-! ## The operand read of a load -/

/-- The instructions of classes 5, 6 and 7 are the loads. -/
theorem exec_load {cls : GrClass} (hc : cls ∈ [GrClass.load, .loadInc, .loadDec]) (wd : Width) (op : GrOp) (ar : Reg)
    (m : MemOp) (s : State) : exec (grInstr cls wd op ar m) s = grLoad cls wd op ar m s := by
  simp only [List.mem_cons, List.not_mem_nil, or_false] at hc
  rcases hc with rfl | rfl | rfl <;> cases wd <;> cases op <;> rfl

/-- Bit 0 apart, an address is on the bus as it is (R62). -/
theorem busAddress_and (wd : Width) (a : Word) : busAddress wd a &&& 0xFFFE = a &&& 0xFFFE := by
  cases wd with
  | byte => rfl
  | word => rw [busAddress, BitVec.and_assoc, BitVec.and_self]

section
variable {cls : GrClass} {wd : Width} {op : GrOp} {ar : Reg} {m : MemOp} {s s1 : State} {a : Word}

/-- A load whose operand nothing answers aborts, with what it may have written left open (R77, R475). -/
theorem grLoad_of_nothing
    (he : effectiveAddress (contextOf (grCode cls wd op ar m) s) (autoStep cls) wd m (startOf (grCode cls wd op ar m) s) =
      .ok a s1)
    (hs : s1.site (busAddress wd a) = .nothing) :
    grLoad cls wd op ar m s = raiseAbort s.pc (some (grCode cls wd op ar m).first) (busAddress wd a) wd
      (abortedOperandRead cls op ar m s1) := by
  unfold grLoad
  refine execute_of_abort ?_
  rw [he]
  simp only [Res.onAbort, Res.bind, busRead_nothing hs]

end

/-- Settles O23: the abort of the operand read, raised from the state in which what the load could write is open. -/
theorem absentOperandAborts : Obligations.AbsentOperandAborts := by
  intro cls wd op ar m s s1 a hc
  dsimp only
  intro he hs hb
  obtain ⟨-, -, ⟨⟨-, hpar1, -⟩, -, -⟩, -⟩ := effectiveAddress_keeps he
  have hsame := abortedOperandRead_same cls op ar m s1
  rw [storesResult_eq, opIndicators_eq] at hsame
  obtain ⟨-, -, -, ⟨⟨-, hpar, -⟩, hk, -⟩, -⟩ := id hsame
  obtain ⟨info, ret, t, ht, hret, hd, ha, hbyte⟩ := raiseAbort_done (w := (grCode cls wd op ar m).first)
    (a := busAddress wd a) (wd := wd) (hpar.trans hpar1 : _ = s.par) (hb.of_same hpar hk)
  refine ⟨info, ret, _, t, ?_, hret, hd, ha.trans (busAddress_and wd a), ?_, ?_, hsame⟩
  · rw [exec_load hc, grLoad_of_nothing he hs, ht]
  · rintro rfl; exact hbyte rfl
  · rintro rfl hi; exact abortedOperandRead_direct op ar s1 hi

end Sys2Proof.Machine

/-! PROOF. The formats of the instruction words: which instructions each has, and the fields of its words. -/

namespace Sys2Proof

/-! ## The formats (R103) -/

/-- The words of each format with the instruction that they are: the families of `code`, so that a fact about every
instruction is one fact for each format. -/
inductive Format : Code → Instr → Prop
  | gr (cls : GrClass) (wd : Width) (op : GrOp) (ar : Reg) (m : MemOp) :
      Format (grCode cls wd op ar m) (grInstr cls wd op ar m)
  | jump (m : MemOp) : Format (jumpCode .r0 m) (.jump m)
  | jsbr (ar : Reg) (m : MemOp) : Format (jumpCode ar m) (.jsbr ar m)
  | accReg (op : GrOp) (ar xr : Reg) : Format (accRegCode op ar xr) (accRegInstr op ar xr)
  | accLit (op : GrOp) (ar xr : Reg) (lit : Word) : Format (accLitCode op ar xr lit) (accLitInstr op ar xr lit)
  | accImm (op : GrOp) (ar : Reg) (k : BitVec 4) : Format (accImmCode op ar k) (accImmInstr op ar k)
  | nopr (d : BitVec 8) : Format (branchCode false 0 d) (.nopr d)
  | brun (d : BitVec 8) : Format (branchCode true 0 d) (.brun d)
  | branch (sense : Bool) (cond : Cond) (d : BitVec 8) :
      Format (branchCode sense cond.bits d) (branchInstr sense cond d)
  | shiftX (double : Bool) (op : ShiftOp) (ar xr : Reg) :
      Format (shiftXCode double op ar xr) (shiftXInstr double op ar xr)
  | shiftK (op : ShiftOp) (ar : Reg) (k : BitVec 4) : Format (shiftKCode op ar k) (shiftKInstr op ar k)
  | doubleShiftK (op : ShiftOp) (pair : BitVec 2) (k : BitVec 5) :
      Format (doubleShiftKCode op pair k) (doubleShiftKInstr op pair k)
  | normalize (double : Bool) (op : NormOp) (ar xr : Reg) :
      Format (normalizeCode double op ar xr) (normalizeInstr double op ar xr)
  | halt : Format (controlCode 0 0) .halt
  | rsts (f : BitVec 7) : Format (statusCode false f) (.rsts f)
  | sets (f : BitVec 7) : Format (statusCode true f) (.sets f)
  | enbl (k : BitVec 4) : Format (interruptCode 0 k) (.enbl k)
  | enbw (k : BitVec 4) : Format (interruptCode 4 k) (.enbw k)
  | dsbl (k : BitVec 4) : Format (interruptCode 8 k) (.dsbl k)
  | dsbw (k : BitVec 4) : Format (interruptCode 12 k) (.dsbw k)
  | waitE : Format (interruptCode 4 0) .waitE
  | waitD : Format (interruptCode 12 0) .waitD
  | direct (op : DirectOp) (md : AddrMode) (d : BitVec 8) : Format (directCode op md d) (directInstr op md d)
  | fclw (ar : Reg) (m : MemOp) : Format (fetchClearCode .word ar m) (.fclw ar m)
  | fclb (ar : Reg) (m : MemOp) : Format (fetchClearCode .byte ar m) (.fclb ar m)
  | skey (k : BitVec 2) : Format (keyCode k none) (.skey k)
  | jkey (k : BitVec 2) (target : Word) : Format (keyCode k (some target)) (.jkey k target)
  | lcpu (xr : Reg) : Format (processorCode 2 xr) (.lcpu xr)
  | lkey (xr : Reg) : Format (processorCode 3 xr) (.lkey xr)
  | bitX (op : BitOp) (ar xr : Reg) : Format (bitXCode op ar xr) (bitXInstr op ar xr)
  | bitK (op : BitOp) (ar : Reg) (k : BitVec 4) : Format (bitKCode op ar k) (bitKInstr op ar k)
  | bitM (op : BitOp) (ar xr : Reg) (mask : Word) : Format (bitMCode op ar xr mask) (bitMInstr op ar xr mask)
  | move (op : MoveOp) (ar xr : Reg) : Format (moveCode op ar xr) (moveInstr op ar xr)
  | fixed (op : FixedOp) (ar : Reg) (m : MemOp) : Format (fixedCode op ar m) (fixedInstr op ar m)
  | mlta (ar : Reg) (m : MemOp) : Format (fixedCode .mult ar m) (.mlta ar m)
  | mult (ar : Reg) (m : MemOp) : Format (fixedCode .mult ar m) (.mult ar m)
  | decimal (op : DecimalOp) (reg1 reg2 : Reg) (o : DecOperands) :
      Format (decimalCode op reg1 reg2 o) (decimalInstr op reg1 reg2 o)
  | trap (w : Word) : Format ⟨w, none⟩ (.trap w)

/-- Every instruction is in a format, with the words of `code`. -/
theorem format_code (i : Instr) : Format (code i) i := by
  cases i with
  | movwLoad | subwLoad | addwLoad | andwLoad | iorwLoad | eorwLoad | cmpwLoad | tstwLoad | movbLoad |
    subbLoad | addbLoad | andbLoad | iorbLoad | eorbLoad | cmpbLoad | tstbLoad | movwLoadInc | subwLoadInc |
    addwLoadInc | andwLoadInc | iorwLoadInc | eorwLoadInc | cmpwLoadInc | tstwLoadInc | movbLoadInc |
    subbLoadInc | addbLoadInc | andbLoadInc | iorbLoadInc | eorbLoadInc | cmpbLoadInc | tstbLoadInc |
    movwLoadDec | subwLoadDec | addwLoadDec | andwLoadDec | iorwLoadDec | eorwLoadDec | cmpwLoadDec |
    tstwLoadDec | movbLoadDec | subbLoadDec | addbLoadDec | andbLoadDec | iorbLoadDec | eorbLoadDec |
    cmpbLoadDec | tstbLoadDec | movwStore | subwStore | addwStore | andwStore | iorwStore | eorwStore |
    cmpwStore | tstwStore | movbStore | subbStore | addbStore | andbStore | iorbStore | eorbStore | cmpbStore |
    tstbStore | movwStoreInc | subwStoreInc | addwStoreInc | andwStoreInc | iorwStoreInc | eorwStoreInc |
    cmpwStoreInc | tstwStoreInc | movbStoreInc | subbStoreInc | addbStoreInc | andbStoreInc | iorbStoreInc |
    eorbStoreInc | cmpbStoreInc | tstbStoreInc | movwStoreDec | subwStoreDec | addwStoreDec | andwStoreDec |
    iorwStoreDec | eorwStoreDec | cmpwStoreDec | tstwStoreDec | movbStoreDec | subbStoreDec | addbStoreDec |
    andbStoreDec | iorbStoreDec | eorbStoreDec | cmpbStoreDec | tstbStoreDec => exact .gr ..
  | movwReg | subwReg | addwReg | andwReg | iorwReg | eorwReg | cmpwReg | tstwReg => exact .accReg ..
  | movwLit | subwLit | addwLit | andwLit | iorwLit | eorwLit | cmpwLit | tstwLit => exact .accLit ..
  | movwImm | subwImm | addwImm | andwImm | iorwImm | eorwImm | cmpwImm | tstwImm => exact .accImm ..
  | beqt | beqf => exact .branch _ .eq _
  | bgtt | bgtf => exact .branch _ .gt _
  | bovt | bovf => exact .branch _ .ov _
  | bcyt | bcyf => exact .branch _ .cy _
  | bf1t | bf1f => exact .branch _ .f1 _
  | bf2t | bf2f => exact .branch _ .f2 _
  | bf3t | bf3f => exact .branch _ .f3 _
  | blpt | blpf => exact .branch _ .lp _
  | bodt | bodf => exact .branch _ .od _
  | bzet | bzef => exact .branch _ .ze _
  | bngt | bngf => exact .branch _ .ng _
  | bltt | bltf => exact .branch _ .lt _
  | slaoX | slllX | slloX | sllcX | sraoX | srllX | srloX | srlcX | dlaoX | dlllX | dlloX | dllcX | draoX |
    drllX | drloX | drlcX => exact .shiftX ..
  | slaoK | slllK | slloK | sllcK | sraoK | srllK | srloK | srlcK => exact .shiftK ..
  | slan | slln | sran | srln | dlan | dlln | dran | drln => exact .normalize ..
  | dlaoK | dlllK | dlloK | dllcK | draoK | drllK | drloK | drlcK => exact .doubleShiftK ..
  | stsm | regm | retn | msts | mreg => exact .direct ..
  | rbitX | sbitX | cbitX | ibitX | tsbtX | tbitX => exact .bitX ..
  | rbitK | sbitK | cbitK | ibitK | tsbtK | tbitK => exact .bitK ..
  | rbitM | sbitM | cbitM | ibitM | tsbtM | tbitM => exact .bitM ..
  | negt | cplm | movp | movn => exact .move ..
  | dsta | dsub | dadd | divd | dlod => exact .fixed ..
  | zadd | addd | subd | cmpd | sftr | movr | sftl | movl | comp => exact .decimal ..
  | jump => exact .jump _
  | jsbr => exact .jsbr ..
  | nopr => exact .nopr _
  | brun => exact .brun _
  | rsts => exact .rsts _
  | sets => exact .sets _
  | enbl => exact .enbl _
  | enbw => exact .enbw _
  | dsbl => exact .dsbl _
  | dsbw => exact .dsbw _
  | skey => exact .skey _
  | lcpu => exact .lcpu _
  | lkey => exact .lkey _
  | trap => exact .trap _
  | fclw => exact .fclw ..
  | fclb => exact .fclb ..
  | jkey => exact .jkey ..
  | mlta => exact .mlta ..
  | mult => exact .mult ..
  | halt => exact .halt
  | waitE => exact .waitE
  | waitD => exact .waitD

theorem wellFormed_intro {mdl : Model} {i : Instr} (hi : implementedOn mdl i = true) (ho : operandsAllowed i = true) :
    wellFormed mdl i = true := by
  rw [wellFormed, hi, ho]; rfl

theorem operands_of_wellFormed {mdl : Model} {i : Instr} (h : wellFormed mdl i = true) : operandsAllowed i = true := by
  simp only [wellFormed, Bool.and_eq_true] at h
  exact h.2

/-- The words of a format are those of `code`. -/
theorem Format.code_eq {c : Code} {i : Instr} (h : Format c i) : code i = c := by
  cases h with
  | gr cls wd op => cases cls <;> cases wd <;> cases op <;> rfl
  | jsbr | jump | nopr | brun | halt | rsts | sets | enbl | enbw | dsbl | dsbw | waitE | waitD | fclw | fclb | skey | jkey
  | lcpu | lkey | mlta | mult | trap => rfl
  | accReg op | accLit op | accImm op | shiftK op | doubleShiftK op | direct op | bitX op | bitK op | bitM op | move op
  | decimal op => cases op <;> rfl
  | branch sense cond => cases sense <;> cases cond <;> rfl
  | shiftX double op | normalize double op => cases double <;> cases op <;> rfl
  | fixed op ar => cases op <;> cases ar <;> rfl

/-! ## The second word (R104) -/

/-- One lemma for each format; those of the scientific, key and decimal rows need the model to have the row. -/
theorem hasSecondWord_code {mdl : Model} {i : Instr} (h : wellFormed mdl i = true) :
    hasSecondWord mdl (code i).first = (code i).second.isSome := by
  have hi := implemented_of_wellFormed h
  have hf := format_code i
  generalize code i = c at hf ⊢
  cases hf with
  | gr => exact secondWord_gr ..
  | jump | jsbr => exact secondWord_jump ..
  | accReg => exact secondWord_accReg ..
  | accLit => exact secondWord_accLit ..
  | accImm => exact secondWord_accImm ..
  | nopr | brun | branch => exact secondWord_branch ..
  | shiftX => exact secondWord_shiftX ..
  | shiftK => exact secondWord_shiftK ..
  | doubleShiftK => exact secondWord_doubleShiftK ..
  | normalize => exact secondWord_normalize ..
  | halt => exact secondWord_halt
  | rsts | sets => exact secondWord_status ..
  | enbl | enbw | dsbl | dsbw | waitE | waitD => exact secondWord_interrupt (by decide) _
  | direct => exact secondWord_direct ..
  | fclw | fclb => exact secondWord_fetchClear hi ..
  | skey => exact secondWord_skey _
  | jkey => exact secondWord_jkey hi ..
  | lcpu | lkey => exact secondWord_processor (by decide) _
  | bitX => exact secondWord_bitX ..
  | bitK => exact secondWord_bitK ..
  | bitM op => exact secondWord_bitM (by cases op <;> exact hi) ..
  | move => exact secondWord_move ..
  | fixed op ar => exact secondWord_fixed (by cases op <;> cases ar <;> exact hi) ..
  | mlta | mult => exact secondWord_fixed hi ..
  | decimal op => exact secondWord_decimal (by cases op <;> exact hi) ..
  | trap => exact secondWord_trap hi

/-- Settles O4: by the format of the instruction. -/
theorem secondWordFromFirst : Obligations.SecondWordFromFirst := fun _ _ h => hasSecondWord_code h

end Sys2Proof

/-! PROOF. The fields of each format's words and the words from their fields; what the words of a format decode to. -/

namespace Sys2Proof

/-! ## The fields of a format's first word -/

section
variable (c : BitVec 4) (b : Bool) (op : BitVec 3) (ar : Reg) (m : MemOp) (k : BitVec 4)

@[simp] theorem fieldC_constCode : fieldC (constCode c b op ar k).first = c := by simp [constCode_eq]
@[simp] theorem bit11_constCode : (constCode c b op ar k).first[11] = b := by simp [constCode_eq]
@[simp] theorem fieldOp_constCode : fieldOp (constCode c b op ar k).first = op := by simp [constCode_eq]
@[simp] theorem bit7_constCode : (constCode c b op ar k).first[7] = true := by simp [constCode_eq]
@[simp] theorem fieldAr_constCode : fieldAr (constCode c b op ar k).first = ar := by simp [constCode_eq]
@[simp] theorem fieldK_constCode : fieldK (constCode c b op ar k).first = k := by
  unfold fieldK constCode; dsimp only; grind

@[simp] theorem memOpOf_memCode :
    memOpOf (memCode c b op ar m).first ((memCode c b op ar m).second.getD 0) = m := by
  obtain ⟨ind, ext, xr⟩ := m
  cases ext <;> simp [memOpOf, memCode]
end

theorem fields_doubleShiftKCode (op : ShiftOp) (pair : BitVec 2) (k : BitVec 5) :
    let w := (doubleShiftKCode op pair k).first
    fieldC w = 10 ∧ w.getLsbD 11 = true ∧ fieldOp w = op.bits ∧ w.getLsbD 7 = true ∧ w.extractLsb' 5 2 = pair ∧
      w.extractLsb' 0 5 = k := by
  unfold doubleShiftKCode fieldC fieldOp
  refine ⟨?_, ?_, ?_, ?_, ?_, ?_⟩ <;> dsimp only <;> grind

theorem decimalCode_first (op : DecimalOp) (reg1 reg2 : Reg) (o : DecOperands) : (decimalCode op reg1 reg2 o).first =
    fieldsWord 12 (op.bits.getLsbD 3) (op.bits.extractLsb' 0 3) false reg1.bits false reg2.bits := by
  unfold decimalCode fieldsWord; cases op <;> rfl

@[simp] theorem decOperandsOf_word (o : DecOperands) : decOperandsOf (decOperandsWord o) = o := by
  obtain ⟨l1, l2, bit7, x1, bit3, x2⟩ := o
  have reg {b : BitVec 3} {r : Reg} (h : b = r.bits) : regOf b = r := by rw [h, regOf_bits]
  simp only [decOperandsOf, decOperandsWord, DecOperands.mk.injEq]
  refine ⟨?_, ?_, ?_, reg ?_, ?_, reg ?_⟩ <;> grind

theorem fields_statusCode : ∀ (set : Bool) (f : BitVec 7), let w := (statusCode set f).first
    fieldC w = 0 ∧ fieldT w = 2 ∧ w.getLsbD 7 = set ∧ w.extractLsb' 0 7 = f := by decide

theorem fields_interruptCode : ∀ h3 k : BitVec 4, let w := (interruptCode h3 k).first
    fieldC w = 0 ∧ fieldT w = 8 ∧ fieldH3 w = h3 ∧ fieldK w = k := by decide

theorem directCode_first (op : DirectOp) (md : AddrMode) (d : BitVec 8) :
    (directCode op md d).first = byteWord 0 (BitVec.ofBool (md == .relative) ++ op.bits) d := by
  unfold directCode byteWord; dsimp only; grind

theorem fields_keyCode (k : BitVec 2) (target : Option Word) : let w := (keyCode k target).first
    fieldC w = 0 ∧ fieldT w = 8 ∧ fieldH3 w = 1 ∧ w.getLsbD 3 = target.isSome ∧ w.getLsbD 2 = false ∧
      w.extractLsb' 0 2 = k := by
  unfold keyCode
  dsimp only
  generalize target.isSome = e
  revert k e; decide

theorem fields_processorCode (h3 : BitVec 4) (xr : Reg) : let w := (processorCode h3 xr).first
    fieldC w = 0 ∧ fieldT w = 8 ∧ fieldH3 w = h3 ∧ w.getLsbD 3 = false ∧ fieldXr w = xr := by
  revert h3; cases xr <;> decide

/-! ## The operation of an operation code -/

@[simp] theorem grOpOf_bits (op : GrOp) : grOpOf op.bits = op := by cases op <;> rfl
@[simp] theorem shiftOpOf_bits (op : ShiftOp) : shiftOpOf op.bits = op := by cases op <;> rfl
@[simp] theorem normOpOf_bits (op : NormOp) : normOpOf op.bits = op := by cases op <;> rfl
@[simp] theorem bitOpOf_bits (op : BitOp) : bitOpOf op.bits = some op := by cases op <;> rfl
@[simp] theorem fixedOpOf_bits (op : FixedOp) : fixedOpOf op.bits = some op := by cases op <;> rfl
@[simp] theorem decimalOpOf_bits (op : DecimalOp) : decimalOpOf op.bits = some op := by cases op <;> rfl

theorem bits_grOpOf : ∀ b : BitVec 3, (grOpOf b).bits = b := by decide
theorem bits_shiftOpOf : ∀ b : BitVec 3, (shiftOpOf b).bits = b := by decide
theorem bits_normOpOf : ∀ b : BitVec 3, b.getLsbD 0 = false → (normOpOf b).bits = b := by decide

theorem bits_of_bitOpOf {b : BitVec 3} {op : BitOp} (h : bitOpOf b = some op) : b = op.bits := by
  revert b; cases op <;> decide

theorem bitOpOf_eq_none : ∀ b : BitVec 3, b ≠ 0 → bitOpOf b = none → b = 7 := by decide

theorem bits_of_fixedOpOf {b : BitVec 3} {op : FixedOp} (h : fixedOpOf b = some op) : b = op.bits := by
  revert b; cases op <;> decide

theorem fixedOpOf_isNone : ∀ b : BitVec 3, (fixedOpOf b).isNone = (b == 6 || b == 7) := by decide

theorem bits_of_decimalOpOf {b : BitVec 4} {op : DecimalOp} (h : decimalOpOf b = some op) : b = op.bits := by
  revert b; cases op <;> decide

/-! ## The words from their fields -/

section
variable {w w2 : Word} {c : BitVec 4} {b i e : Bool} {op : BitVec 3}

theorem fieldAr_bits (w : Word) : (fieldAr w).bits = w.extractLsb' 4 3 := bits_regOf _
theorem fieldXr_bits (w : Word) : (fieldXr w).bits = w.extractLsb' 0 3 := bits_regOf _

theorem ofBool_getLsbD (w : Word) (n : Nat) : BitVec.ofBool (w.getLsbD n) = w.extractLsb' n 1 := by
  ext j hj
  obtain rfl : j = 0 := by omega
  simp

theorem fieldsWord_fields (hc : fieldC w = c) (hb : w.getLsbD 11 = b) (hop : fieldOp w = op) (hi : w.getLsbD 7 = i)
    (he : w.getLsbD 3 = e) : fieldsWord c b op i (fieldAr w).bits e (fieldXr w).bits = w := by
  subst hc hb hop hi he
  simp only [fieldsWord, fieldC, fieldOp, ofBool_getLsbD, fieldAr_bits, fieldXr_bits]
  grind

theorem memCode_fields (hc : fieldC w = c) (hb : w.getLsbD 11 = b) (hop : fieldOp w = op) :
    memCode c b op (fieldAr w) (memOpOf w w2) = ⟨w, if w.getLsbD 3 then some w2 else none⟩ := by
  have he : (memOpOf w w2).ext.isSome = w.getLsbD 3 := by
    unfold memOpOf; cases w.getLsbD 3 <;> rfl
  rw [memCode, he]
  exact congrArg (Code.mk · _) (fieldsWord_fields hc hb hop rfl rfl)

theorem constCode_fields (hc : fieldC w = c) (hb : w.getLsbD 11 = b) (hop : fieldOp w = op) (hi : w.getLsbD 7 = true) :
    constCode c b op (fieldAr w) (fieldK w) = ⟨w, none⟩ := by
  rw [constCode, Code.mk.injEq, ← hi]
  subst hc hb hop
  simp only [fieldC, fieldOp, ofBool_getLsbD, fieldAr_bits, fieldK]
  grind

theorem byteWord_fields {t : BitVec 4} {d : BitVec 8} (hc : fieldC w = c) (ht : fieldT w = t) (hd : fieldD w = d) :
    byteWord c t d = w := by
  subst hc ht hd
  unfold byteWord fieldC fieldT fieldD; grind

theorem doubleShiftKCode_fields {op : ShiftOp} (hc : fieldC w = 10) (hb : w.getLsbD 11 = true)
    (hop : fieldOp w = op.bits) (hi : w.getLsbD 7 = true) :
    doubleShiftKCode op (w.extractLsb' 5 2) (w.extractLsb' 0 5) = ⟨w, none⟩ := by
  rw [doubleShiftKCode, Code.mk.injEq, ← hop]
  nth_rw 1 [← hb]
  rw [← hi, ← hc]
  simp only [fieldC, fieldOp, ofBool_getLsbD]
  grind

theorem fieldH3_eq (w : Word) : fieldH3 w = BitVec.ofBool (w.getLsbD 7) ++ (fieldAr w).bits := by
  simp only [fieldH3, ofBool_getLsbD, fieldAr_bits]; grind

theorem fieldD_eq (w : Word) : fieldD w = fieldH3 w ++ fieldK w := by
  unfold fieldD fieldH3 fieldK; grind

theorem fieldK_eq (w : Word) : fieldK w = BitVec.ofBool (w.getLsbD 3) ++ (fieldXr w).bits := by
  simp only [fieldK, ofBool_getLsbD, fieldXr_bits]; grind

theorem fieldXr_bits_eq (w : Word) : (fieldXr w).bits = BitVec.ofBool (w.getLsbD 2) ++ w.extractLsb' 0 2 := by
  simp only [ofBool_getLsbD, fieldXr_bits]; grind

theorem leftByte_eq (w : Word) : w.extractLsb' 8 8 = fieldC w ++ fieldT w := by
  unfold fieldC fieldT; grind

theorem decOperandsWord_of (w2 : Word) : decOperandsWord (decOperandsOf w2) = w2 := by
  simp only [decOperandsWord, decOperandsOf, ofBool_getLsbD, bits_regOf]; grind
end

/-! ## The decoder by class (R102) -/

section
variable {mdl : Model} {w w2 : Word}

theorem decode_eq_control (h : fieldC w = 0) : decode mdl w w2 = decodeControl mdl w w2 := by simp [decode, h]
theorem decode_eq_gr {cls : GrClass} (h : fieldC w = cls.bits) : decode mdl w w2 = decodeGr cls w w2 := by
  cases cls <;> simp [decode, h, GrClass.bits]
theorem decode_eq_class4 (h : fieldC w = 4) : decode mdl w w2 = decodeClass4 mdl w w2 := by simp [decode, h]
theorem decode_eq_branch {sense : Bool} (h : fieldC w = if sense then 9 else 8) :
    decode mdl w w2 = branchRow sense w := by
  cases sense <;> simp [decode, h]
theorem decode_eq_shift (h : fieldC w = 10) : decode mdl w w2 = decodeShift mdl w := by simp [decode, h]
theorem decode_eq_fixed (h : fieldC w = 11) : decode mdl w w2 = decodeFixed mdl w w2 := by simp [decode, h]
theorem decode_eq_decimal (h : fieldC w = 12) : decode mdl w w2 = decodeDecimal mdl w w2 := by simp [decode, h]
end

/-! ## The instruction that a format's words decode to -/

section
variable {mdl : Model}

theorem decode_grCode (cls : GrClass) (wd : Width) (op : GrOp) (ar : Reg) (m : MemOp) :
    let c := grCode cls wd op ar m
    decode mdl c.first (c.second.getD 0) = grInstr cls wd op ar m := by
  have hm := memOpOf_memCode cls.bits (wd == .byte) op.bits ar m
  dsimp only
  rw [decode_eq_gr (cls := cls) (by simp [grCode, memCode]), decodeGr, grCode, hm]
  cases wd <;> simp [memCode]

theorem decode_jumpCode (ar : Reg) (m : MemOp) :
    let c := jumpCode ar m
    decode mdl c.first (c.second.getD 0) = if ar = .r0 then .jump m else .jsbr ar m := by
  have hm := memOpOf_memCode 4 false 0 ar m
  dsimp only
  rw [decode_eq_class4 (by simp [jumpCode, memCode]), decodeClass4, decodeClass4Low, jumpCode, hm]
  simp [memCode]

theorem decode_accRegCode (op : GrOp) (ar xr : Reg) (w2 : Word) :
    decode mdl (accRegCode op ar xr).first w2 = accRegInstr op ar xr := by
  rw [decode_eq_class4 (by simp [accRegCode])]
  simp [decodeClass4, accRegCode]

theorem decode_accLitCode (op : GrOp) (ar xr : Reg) (lit : Word) :
    decode mdl (accLitCode op ar xr lit).first lit = accLitInstr op ar xr lit := by
  rw [decode_eq_class4 (by simp [accLitCode])]
  simp [decodeClass4, accLitCode]

theorem decode_accImmCode (op : GrOp) (ar : Reg) (k : BitVec 4) (w2 : Word) :
    decode mdl (accImmCode op ar k).first w2 = accImmInstr op ar k := by
  rw [decode_eq_class4 (by simp [accImmCode])]
  simp [decodeClass4, accImmCode]

theorem branchRow_of_cond {w : Word} {cond : Cond} (h : fieldT w = cond.bits) (sense : Bool) :
    branchRow sense w = branchInstr sense cond (fieldD w) := by
  cases cond <;> simp [branchRow, h, Cond.bits]

theorem decode_branchCode (sense : Bool) (t : BitVec 4) (d : BitVec 8) (w2 : Word) :
    decode mdl (branchCode sense t d).first w2 = branchRow sense (branchCode sense t d).first :=
  decode_eq_branch (by simp [branchCode])

theorem decode_shiftXCode {double : Bool} (h : double = true → mdl.isScientific = true) (op : ShiftOp) (ar xr : Reg)
    (w2 : Word) : decode mdl (shiftXCode double op ar xr).first w2 = shiftXInstr double op ar xr := by
  rw [decode_eq_shift (by simp [shiftXCode])]
  cases double <;> simp [decodeShift, shiftXCode, h]

theorem decode_shiftKCode (op : ShiftOp) (ar : Reg) (k : BitVec 4) (w2 : Word) :
    decode mdl (shiftKCode op ar k).first w2 = shiftKInstr op ar k := by
  rw [decode_eq_shift (by simp [shiftKCode])]
  simp [decodeShift, shiftKCode]

theorem decode_doubleShiftKCode (h : mdl.isScientific = true) (op : ShiftOp) (pair : BitVec 2) (k : BitVec 5)
    (w2 : Word) : decode mdl (doubleShiftKCode op pair k).first w2 = doubleShiftKInstr op pair k := by
  obtain ⟨hc, h11, hop, h7, hpair, hk⟩ := fields_doubleShiftKCode op pair k
  rw [decode_eq_shift hc, decodeShift, h11, hop, h7, hpair, hk]
  simp [h]

theorem decode_normalizeCode (h : mdl.isScientific = true) (double : Bool) (op : NormOp) (ar xr : Reg) (w2 : Word) :
    decode mdl (normalizeCode double op ar xr).first w2 = normalizeInstr double op ar xr := by
  have h8 : (normalizeCode double op ar xr).first.getLsbD 8 = false := by
    unfold normalizeCode fieldsWord; cases op <;> grind [NormOp.bits]
  rw [decode_eq_shift (by simp [normalizeCode]), decodeShift, h8]
  simp [normalizeCode, h]

theorem decode_statusCode (set : Bool) (f : BitVec 7) (w2 : Word) :
    decode mdl (statusCode set f).first w2 = if set then .sets f else .rsts f := by
  obtain ⟨hc, ht, h7, hf⟩ := fields_statusCode set f
  rw [decode_eq_control hc, decodeControl, ht, h7, hf]
  rfl

/-- The words with H2 = 8 are decoded by their third digit. -/
theorem decode_interrupt {w w2 : Word} (hc : fieldC w = 0) (ht : fieldT w = 8) :
    decode mdl w w2 = decodeInterrupt mdl w w2 := by
  simp [decode_eq_control hc, decodeControl, ht]

theorem decode_enbl (k : BitVec 4) (w2 : Word) : decode mdl (interruptCode 0 k).first w2 = .enbl k := by
  obtain ⟨hc, ht, hh, hk⟩ := fields_interruptCode 0 k
  rw [decode_interrupt hc ht, decodeInterrupt, hh, hk]
  rfl

theorem decode_dsbl (k : BitVec 4) (w2 : Word) : decode mdl (interruptCode 8 k).first w2 = .dsbl k := by
  obtain ⟨hc, ht, hh, hk⟩ := fields_interruptCode 8 k
  rw [decode_interrupt hc ht, decodeInterrupt, hh, hk]
  rfl

theorem decode_enbw (k : BitVec 4) (w2 : Word) :
    decode mdl (interruptCode 4 k).first w2 = if k = 0 then .waitE else .enbw k := by
  obtain ⟨hc, ht, hh, hk⟩ := fields_interruptCode 4 k
  rw [decode_interrupt hc ht, decodeInterrupt, hh, hk]
  rfl

theorem decode_dsbw (k : BitVec 4) (w2 : Word) :
    decode mdl (interruptCode 12 k).first w2 = if k = 0 then .waitD else .dsbw k := by
  obtain ⟨hc, ht, hh, hk⟩ := fields_interruptCode 12 k
  rw [decode_interrupt hc ht, decodeInterrupt, hh, hk]
  rfl

theorem decode_directCode (op : DirectOp) (md : AddrMode) (d : BitVec 8) (w2 : Word) :
    decode mdl (directCode op md d).first w2 = directInstr op md d := by
  rw [directCode_first, decode_eq_control (by simp), decodeControl, fieldT_byteWord, fieldD_byteWord]
  cases op <;> cases md <;> rfl

theorem decode_fetchClearCode (h : mdl.hasKey = true) (wd : Width) (ar : Reg) (m : MemOp) :
    let c := fetchClearCode wd ar m
    decode mdl c.first (c.second.getD 0) = match wd with | .word => .fclw ar m | .byte => .fclb ar m := by
  have hm := memOpOf_memCode 0 (wd == .byte) 6 ar m
  dsimp only
  rw [decode_eq_control (by simp [fetchClearCode, memCode]), decodeControl, fetchClearCode, hm, h, memCode,
    fieldT_fieldsWord, fieldAr_fieldsWord, regOf_bits]
  cases wd <;> rfl

theorem decode_skey (h : mdl.hasKey = true) (k : BitVec 2) (w2 : Word) :
    decode mdl (keyCode k none).first w2 = .skey k := by
  obtain ⟨hc, ht, hh, h3, h2, hk⟩ := fields_keyCode k none
  rw [decode_interrupt hc ht, decodeInterrupt, hh, h2, h3, hk, h]
  rfl

theorem decode_jkey (h : mdl.isScientific = true) (k : BitVec 2) (target : Word) :
    decode mdl (keyCode k (some target)).first target = .jkey k target := by
  obtain ⟨hc, ht, hh, h3, h2, hk⟩ := fields_keyCode k (some target)
  rw [decode_interrupt hc ht, decodeInterrupt, hh, h2, h3, hk, h]
  rfl

theorem decode_lcpu (h : mdl.isScientific = true) (xr : Reg) (w2 : Word) :
    decode mdl (processorCode 2 xr).first w2 = .lcpu xr := by
  obtain ⟨hc, ht, hh, h3, hx⟩ := fields_processorCode 2 xr
  rw [decode_interrupt hc ht, decodeInterrupt, hh, h3, hx, h]
  rfl

theorem decode_lkey (h : mdl.isScientific = true) (xr : Reg) (w2 : Word) :
    decode mdl (processorCode 3 xr).first w2 = .lkey xr := by
  obtain ⟨hc, ht, hh, h3, hx⟩ := fields_processorCode 3 xr
  rw [decode_interrupt hc ht, decodeInterrupt, hh, h3, hx, h]
  rfl

theorem decode_class4Low (h : mdl.isScientific = true) {w w2 : Word} (hc : fieldC w = 4) (h11 : w.getLsbD 11 = false)
    (hop : fieldOp w ≠ 0) : decode mdl w w2 =
      match bitOpOf (fieldOp w) with
      | some op => decodeBit op w w2
      | none => decodeMove w := by
  rw [decode_eq_class4 hc, decodeClass4, h11, decodeClass4Low, if_neg hop, h]
  rfl

theorem BitOp.bits_ne_zero (op : BitOp) : op.bits ≠ 0 := by cases op <;> decide

theorem decode_bitXCode (h : mdl.isScientific = true) (op : BitOp) (ar xr : Reg) (w2 : Word) :
    decode mdl (bitXCode op ar xr).first w2 = bitXInstr op ar xr := by
  rw [decode_class4Low h (by simp [bitXCode]) (by simp [bitXCode]) (by simpa [bitXCode] using op.bits_ne_zero)]
  simp [bitXCode, decodeBit]

theorem decode_bitKCode (h : mdl.isScientific = true) (op : BitOp) (ar : Reg) (k : BitVec 4) (w2 : Word) :
    decode mdl (bitKCode op ar k).first w2 = bitKInstr op ar k := by
  rw [decode_class4Low h (by simp [bitKCode]) (by simp [bitKCode]) (by simpa [bitKCode] using op.bits_ne_zero)]
  simp [bitKCode, decodeBit]

theorem decode_bitMCode (h : mdl.isScientific = true) (op : BitOp) (ar xr : Reg) (mask : Word) :
    decode mdl (bitMCode op ar xr mask).first mask = bitMInstr op ar xr mask := by
  rw [decode_class4Low h (by simp [bitMCode]) (by simp [bitMCode]) (by simpa [bitMCode] using op.bits_ne_zero)]
  simp [bitMCode, decodeBit]

theorem decode_moveCode (h : mdl.isScientific = true) (op : MoveOp) (ar xr : Reg) (w2 : Word) :
    decode mdl (moveCode op ar xr).first w2 = moveInstr op ar xr := by
  rw [decode_class4Low h (by simp [moveCode]) (by simp [moveCode]) (by simp [moveCode])]
  cases op <;> simp [moveCode, decodeMove, bitOpOf, MoveOp.bitI, MoveOp.bitJ]

theorem decode_fixedCode (h : mdl.isScientific = true) (op : FixedOp) (ar : Reg) (m : MemOp) :
    let c := fixedCode op ar m
    decode mdl c.first (c.second.getD 0) = fixedInstr op ar m := by
  have hm := memOpOf_memCode 11 false op.bits ar m
  dsimp only
  rw [decode_eq_fixed (by simp [fixedCode, memCode]), decodeFixed, fixedCode, hm]
  simp [memCode, h]

theorem decode_decimalCode (h : mdl.isDecimal = true) (op : DecimalOp) (reg1 reg2 : Reg) (o : DecOperands) :
    decode mdl (decimalCode op reg1 reg2 o).first (decOperandsWord o) = decimalInstr op reg1 reg2 o := by
  have ht : fieldT (decimalCode op reg1 reg2 o).first = op.bits := by
    rw [decimalCode_first, fieldT_fieldsWord]; cases op <;> rfl
  rw [decode_eq_decimal (by simp [decimalCode_first]), decodeDecimal, ht, decimalCode_first]
  simp [decodeDecimalRow, h]

end

end Sys2Proof

/-! PROOF. What the decoder answers for any two words, class by class. -/

namespace Sys2Proof

/-! ## The encodings that trap, by class -/

section
variable {mdl : Model} {w : Word}

theorem trapEncoding_control (h : fieldC w = 0) : trapEncoding mdl w =
    (fieldT w == 10 || (fieldT w == 6 || fieldT w == 14) && !mdl.hasKey || fieldT w == 8 &&
      (fieldH3 w == 1 && (!mdl.hasKey || w.getLsbD 2 || w.getLsbD 3 && !mdl.isScientific)
        || (fieldH3 w == 2 || fieldH3 w == 3) && (!mdl.isScientific || w.getLsbD 3)
        || !(fieldH3 w == 0 || fieldH3 w == 1 || fieldH3 w == 2 || fieldH3 w == 3 || fieldH3 w == 4 || fieldH3 w == 8
          || fieldH3 w == 12))) := by
  have hc : w.extractLsb' 12 4 = 0 := h
  rw [trapEncoding, undefinedEncoding, hc]; rfl

theorem trapEncoding_gr {cls : GrClass} (h : fieldC w = cls.bits) : trapEncoding mdl w = false := by
  have hc : w.extractLsb' 12 4 = cls.bits := h
  rw [trapEncoding, undefinedEncoding, hc]; cases cls <;> rfl

theorem trapEncoding_class4 (h : fieldC w = 4) :
    trapEncoding mdl w = (!w.getLsbD 11 && fieldOp w != 0 && !mdl.isScientific) := by
  have hc : w.extractLsb' 12 4 = 4 := h
  rw [trapEncoding, undefinedEncoding, hc]; rfl

theorem trapEncoding_branch {sense : Bool} (h : fieldC w = if sense then 9 else 8) :
    trapEncoding mdl w = decide (13 ≤ (fieldT w).toNat) := by
  have hc : w.extractLsb' 12 4 = if sense then 9 else 8 := h
  rw [trapEncoding, hc]; cases sense <;> rfl

theorem trapEncoding_shift (h : fieldC w = 10) : trapEncoding mdl w =
    (!mdl.isScientific && (w.getLsbD 11 || !w.getLsbD 7 && w.getLsbD 3)
      || mdl.isScientific && (!w.getLsbD 7 && w.getLsbD 3) && w.getLsbD 8) := by
  have hc : w.extractLsb' 12 4 = 10 := h
  rw [trapEncoding, undefinedEncoding, hc]; rfl

theorem trapEncoding_fixed (h : fieldC w = 11) : trapEncoding mdl w =
    (!mdl.isScientific || mdl.isScientific && (w.getLsbD 11 || fieldOp w == 6 || fieldOp w == 7)) := by
  have hc : w.extractLsb' 12 4 = 11 := h
  rw [trapEncoding, undefinedEncoding, hc]; rfl

theorem trapEncoding_decimal (h : fieldC w = 12) : trapEncoding mdl w =
    (!mdl.isDecimal || (decimalOpOf (fieldT w)).isNone || w.getLsbD 7 || w.getLsbD 3) := by
  have hc : w.extractLsb' 12 4 = 12 := h
  have ht : w.extractLsb' 8 4 = fieldT w := rfl
  have table : ∀ (dec b7 b3 : Bool) (t : BitVec 4), (!dec || t.toNat == 0 || t.toNat == 1 || t.toNat == 6 || t.toNat == 7
      || decide (13 ≤ t.toNat) || dec && (b7 || b3) && !(t == 0 || t == 1 || t == 6 || t == 7 || t == 13 || t == 14
        || t == 15)) = (!dec || (decimalOpOf t).isNone || b7 || b3) := by decide
  rw [trapEncoding, undefinedEncoding, hc, ht]
  exact table ..

theorem trapEncoding_reserved (h : 13 ≤ (fieldC w).toNat) : trapEncoding mdl w = true := by
  have hlt := (fieldC w).isLt
  have hc : (w.extractLsb' 12 4).toNat = 13 ∨ (w.extractLsb' 12 4).toNat = 14 ∨ (w.extractLsb' 12 4).toNat = 15 := by
    simp only [fieldC] at h hlt; omega
  rcases hc with hc | hc | hc <;> rw [trapEncoding, hc] <;> rfl
end

/-! ## What the decoder answers -/

/-- What holds of the instruction `i` that the decoder answers for the words `w` and `w2`: its words, that it is well formed,
and that it is the "(trap)" row where the first word is such an encoding. -/
structure Decoded (mdl : Model) (w w2 : Word) (i : Instr) : Prop where
  code_eq : code i = ⟨w, if hasSecondWord mdl w then some w2 else none⟩
  wellFormed : fieldC w ≠ 12 ∨ (w2.getLsbD 7 = false ∧ w2.getLsbD 3 = false) → wellFormed mdl i = true
  trap : trapEncoding mdl w = true → i = .trap w

namespace Decoded
variable {mdl : Model} {w w2 : Word}

/-- A well-formed instruction of a format whose words are these. -/
theorem of_format {c : Code} {i : Instr} (hf : Format c i) (h1 : c.first = w) (h2 : ∀ x ∈ c.second, x = w2)
    (hw : Sys2Proof.wellFormed mdl i = true) (ht : trapEncoding mdl w = false) : Decoded mdl w w2 i := by
  have hs := hasSecondWord_code hw
  obtain ⟨first, second⟩ := c
  rw [hf.code_eq, show first = w from h1] at hs
  refine ⟨?_, fun _ => hw, fun h => absurd h (by simp [ht])⟩
  rw [hf.code_eq, hs, show first = w from h1]
  cases second with
  | none => rfl
  | some x => rw [h2 x rfl]; rfl

/-- One whose format has one word. -/
theorem of_one {i : Instr} (hf : Format ⟨w, none⟩ i) (hw : Sys2Proof.wellFormed mdl i = true)
    (ht : trapEncoding mdl w = false) : Decoded mdl w w2 i :=
  of_format hf rfl (by simp) hw ht

/-- One whose format has a second word by its E bit (R104). -/
theorem of_mem {i : Instr} (hf : Format ⟨w, if w.getLsbD 3 then some w2 else none⟩ i)
    (hw : Sys2Proof.wellFormed mdl i = true) (ht : trapEncoding mdl w = false) : Decoded mdl w w2 i := by
  refine of_format hf rfl (fun x hx => ?_) hw ht
  cases h3 : w.getLsbD 3 <;> simp_all

theorem of_trap (h : trapEncoding mdl w = true) : Decoded mdl w w2 (.trap w) :=
  ⟨by rw [secondWord_trap h]; rfl, fun _ => wellFormed_intro h rfl, fun _ => rfl⟩

theorem gr {cls : GrClass} (hc : fieldC w = cls.bits) : Decoded mdl w w2 (decodeGr cls w w2) := by
  have hop := (bits_grOpOf (fieldOp w)).symm
  unfold decodeGr
  generalize grOpOf (fieldOp w) = op at hop
  generalize hwd : (if w.getLsbD 11 then Width.byte else Width.word) = wd
  have hb : w.getLsbD 11 = (wd == .byte) := by subst hwd; cases w.getLsbD 11 <;> rfl
  refine of_mem (memCode_fields hc hb hop ▸ .gr ..) (wellFormed_intro ?_ ?_) (trapEncoding_gr hc) <;>
    cases cls <;> cases wd <;> cases op <;> rfl

/-! ### Class 0 -/

theorem direct (op : DirectOp) (md : AddrMode) (hc : fieldC w = 0)
    (ht : fieldT w = BitVec.ofBool (md == .relative) ++ op.bits) : Decoded mdl w w2 (directInstr op md (fieldD w)) := by
  have hw : (directCode op md (fieldD w)).first = w := by rw [directCode_first, byteWord_fields hc ht rfl]
  refine of_format (.direct ..) hw (by simp [directCode]) (wellFormed_intro ?_ ?_) ?_
  · cases op <;> rfl
  · cases op <;> rfl
  · rw [trapEncoding_control hc, ht]
    cases md <;> cases op <;> rfl

theorem status (hc : fieldC w = 0) (ht : fieldT w = 2) :
    Decoded mdl w w2 (if w.getLsbD 7 then .sets (w.extractLsb' 0 7) else .rsts (w.extractLsb' 0 7)) := by
  have hD : fieldD w = BitVec.ofBool (w.getLsbD 7) ++ w.extractLsb' 0 7 := by
    rw [ofBool_getLsbD]; unfold fieldD; grind
  have hw : (statusCode (w.getLsbD 7) (w.extractLsb' 0 7)).first = w := by
    refine Eq.trans ?_ (byteWord_fields hc ht hD); unfold statusCode byteWord; grind
  have htrap : trapEncoding mdl w = false := by rw [trapEncoding_control hc, ht]; rfl
  cases h7 : w.getLsbD 7 <;> rw [h7] at hw
  · exact of_format (.rsts _) hw (by simp [statusCode]) rfl htrap
  · exact of_format (.sets _) hw (by simp [statusCode]) rfl htrap

theorem fetchClear {wd : Width} {i : Instr} (hf : Format (fetchClearCode wd (fieldAr w) (memOpOf w w2)) i)
    (hw : implementedOn mdl i = mdl.hasKey) (ho : operandsAllowed i = true) (hc : fieldC w = 0)
    (ht : fieldT w = BitVec.ofBool (wd == .byte) ++ (6 : BitVec 3)) : Decoded mdl w w2 (if mdl.hasKey then i else .trap w) := by
  have htrap : trapEncoding mdl w = !mdl.hasKey := by
    have h : fieldT w = 6 ∨ fieldT w = 14 := by
      cases wd
      · exact .inl ht
      · exact .inr ht
    rw [trapEncoding_control hc]
    rcases h with h | h <;> simp [h]
  have h11 : w.getLsbD 11 = (wd == .byte) := by
    have h : w.getLsbD 11 = (fieldT w).getLsbD 3 := by unfold fieldT; grind
    rw [h, ht]; cases wd <;> rfl
  have hop : fieldOp w = 6 := by rw [fieldOp_eq, ht]; cases wd <;> rfl
  refine iteInduction (fun h => ?_) (fun h => of_trap ?_)
  · exact of_mem (memCode_fields hc h11 hop ▸ hf) (wellFormed_intro (hw.trans h) ho) (by rw [htrap, h]; rfl)
  · rw [htrap]; simpa using h

/-- SKEY and JKEY (R115). -/
theorem key (hc : fieldC w = 0) (ht : fieldT w = 8) (hh : fieldH3 w = 1) : Decoded mdl w w2
    (if w.getLsbD 2 then .trap w
      else if w.getLsbD 3 then (if mdl.isScientific then .jkey (w.extractLsb' 0 2) w2 else .trap w)
      else if mdl.hasKey then .skey (w.extractLsb' 0 2) else .trap w) := by
  have htrap : trapEncoding mdl w = (!mdl.hasKey || w.getLsbD 2 || w.getLsbD 3 && !mdl.isScientific) := by
    rw [trapEncoding_control hc, ht, hh]; simp
  have hkey : mdl.isScientific = true → mdl.hasKey = true := by cases mdl <;> decide
  have hword (target : Option Word) (h3 : w.getLsbD 3 = target.isSome) (h2 : w.getLsbD 2 = false) :
      (keyCode (w.extractLsb' 0 2) target).first = w := by
    have hD := fieldD_eq w
    rw [fieldK_eq, fieldXr_bits_eq, hh, h3, h2] at hD
    refine Eq.trans ?_ (byteWord_fields hc ht hD)
    unfold keyCode byteWord; grind
  refine iteInduction (fun h2 => of_trap ?_) fun h2 => iteInduction (fun h3 => ?_) fun h3 => ?_
  · rw [htrap, h2]; simp
  all_goals rw [Bool.not_eq_true] at h2
  · refine iteInduction (fun h => ?_) (fun h => of_trap ?_)
    · exact of_format (.jkey ..) (hword _ h3 h2) (by simp [keyCode]) (wellFormed_intro h rfl)
        (by rw [htrap, h2, hkey h, h]; simp)
    · rw [htrap, h3]; simp [h]
  all_goals rw [Bool.not_eq_true] at h3
  · refine iteInduction (fun h => ?_) (fun h => of_trap ?_)
    · exact of_format (.skey _) (hword none h3 h2) (by simp [keyCode]) (wellFormed_intro h rfl)
        (by rw [htrap, h2, h3, h]; rfl)
    · rw [htrap]; simp [h]

/-- LCPU and LKEY (R116). -/
theorem processor {h3 : BitVec 4} {i : Instr} (hf : Format (processorCode h3 (fieldXr w)) i)
    (hw : implementedOn mdl i = mdl.isScientific) (ho : operandsAllowed i = true) (h23 : h3 = 2 ∨ h3 = 3) (hc : fieldC w = 0)
    (ht : fieldT w = 8) (hh : fieldH3 w = h3) :
    Decoded mdl w w2 (if mdl.isScientific && !w.getLsbD 3 then i else .trap w) := by
  have htrap : trapEncoding mdl w = (!mdl.isScientific || w.getLsbD 3) := by
    rw [trapEncoding_control hc, ht, hh]; rcases h23 with rfl | rfl <;> simp
  refine iteInduction (fun h => ?_) (fun h => of_trap ?_)
  · obtain ⟨hsci, hb⟩ := Bool.and_eq_true_iff.mp h
    rw [Bool.not_eq_true'] at hb
    refine of_format hf ?_ (by simp [processorCode]) (wellFormed_intro (hw.trans hsci) ho) (by rw [htrap, hsci, hb]; rfl)
    have hD := fieldD_eq w
    rw [fieldK_eq, hh, hb] at hD
    refine Eq.trans ?_ (byteWord_fields hc ht hD)
    unfold processorCode byteWord; grind
  · rw [htrap]
    cases hsci : mdl.isScientific <;> simp_all

/-- The words with H2 = 8, by the third digit. -/
theorem interrupt (hc : fieldC w = 0) (ht : fieldT w = 8) : Decoded mdl w w2 (decodeInterrupt mdl w w2) := by
  have of_level {h3 : BitVec 4} {i : Instr} (hf : Format (interruptCode h3 (fieldK w)) i)
      (hw : Sys2Proof.wellFormed mdl i = true) (h4 : h3 = 0 ∨ h3 = 4 ∨ h3 = 8 ∨ h3 = 12)
      (h : (fieldH3 w).toNat = h3.toNat) : Decoded mdl w w2 i := by
    have hh := BitVec.eq_of_toNat_eq h
    refine of_format hf ?_ (by simp [interruptCode]) hw ?_
    · refine Eq.trans ?_ (byteWord_fields hc ht (hh ▸ fieldD_eq w)); unfold interruptCode byteWord; grind
    · rw [trapEncoding_control hc, ht, hh]; rcases h4 with rfl | rfl | rfl | rfl <;> rfl
  unfold decodeInterrupt
  split
  case h_1 h => exact of_level (h3 := 0) (.enbl _) rfl (by decide) h
  case h_2 h => exact key hc ht (BitVec.eq_of_toNat_eq h)
  case h_3 h => exact processor (.lcpu _) rfl rfl (.inl rfl) hc ht (BitVec.eq_of_toNat_eq h)
  case h_4 h => exact processor (.lkey _) rfl rfl (.inr rfl) hc ht (BitVec.eq_of_toNat_eq h)
  case h_5 h =>
    refine iteInduction (fun hk => ?_) (fun hk => ?_)
    · exact of_level (h3 := 4) (hk ▸ .waitE) rfl (by decide) h
    · exact of_level (h3 := 4) (.enbw _) (wellFormed_intro rfl (bne_iff_ne.mpr hk)) (by decide) h
  case h_6 h => exact of_level (h3 := 8) (.dsbl _) rfl (by decide) h
  case h_7 h =>
    refine iteInduction (fun hk => ?_) (fun hk => ?_)
    · exact of_level (h3 := 12) (hk ▸ .waitD) rfl (by decide) h
    · exact of_level (h3 := 12) (.dsbw _) (wellFormed_intro rfl (bne_iff_ne.mpr hk)) (by decide) h
  case h_8 h0 h1 h2 h3 h4 h8 h12 =>
    refine of_trap ?_
    have ne {v : BitVec 4} (h : (fieldH3 w).toNat = v.toNat → False) : (fieldH3 w == v) = false :=
      beq_eq_false_iff_ne.mpr fun e => h (congrArg BitVec.toNat e)
    rw [trapEncoding_control hc, ht, ne (v := 0) h0, ne (v := 1) h1, ne (v := 2) h2, ne (v := 3) h3, ne (v := 4) h4,
      ne (v := 8) h8, ne (v := 12) h12]
    rfl

theorem control (hc : fieldC w = 0) (h0 : fieldT w ≠ 0) : Decoded mdl w w2 (decodeControl mdl w w2) := by
  unfold decodeControl
  split
  case h_1 h => exact absurd (BitVec.eq_of_toNat_eq h) h0
  case h_2 h => exact direct .stsm .absolute hc (BitVec.eq_of_toNat_eq h)
  case h_3 h => exact status hc (BitVec.eq_of_toNat_eq h)
  case h_4 h => exact direct .regm .absolute hc (BitVec.eq_of_toNat_eq h)
  case h_5 h => exact direct .retn .absolute hc (BitVec.eq_of_toNat_eq h)
  case h_6 h => exact direct .msts .absolute hc (BitVec.eq_of_toNat_eq h)
  case h_7 h => exact fetchClear (.fclw ..) rfl rfl hc (BitVec.eq_of_toNat_eq h)
  case h_8 h => exact direct .mreg .absolute hc (BitVec.eq_of_toNat_eq h)
  case h_9 h => exact interrupt hc (BitVec.eq_of_toNat_eq h)
  case h_10 h => exact direct .stsm .relative hc (BitVec.eq_of_toNat_eq h)
  case h_11 h => exact direct .regm .relative hc (BitVec.eq_of_toNat_eq h)
  case h_12 h => exact direct .retn .relative hc (BitVec.eq_of_toNat_eq h)
  case h_13 h => exact direct .msts .relative hc (BitVec.eq_of_toNat_eq h)
  case h_14 h => exact fetchClear (.fclb ..) rfl rfl hc (BitVec.eq_of_toNat_eq h)
  case h_15 h => exact direct .mreg .relative hc (BitVec.eq_of_toNat_eq h)
  case h_16 =>
    have ht : fieldT w = 10 := by
      have hlt := (fieldT w).isLt
      simp only [imp_false] at *
      exact BitVec.eq_of_toNat_eq (show (fieldT w).toNat = 10 by omega)
    exact of_trap (by rw [trapEncoding_control hc, ht]; rfl)

/-! ### Class 4 -/

theorem bitManipulation (hs : mdl.isScientific = true) (op : BitOp) (hc : fieldC w = 4) (h11 : w.getLsbD 11 = false)
    (hop : fieldOp w = op.bits) : Decoded mdl w w2 (decodeBit op w w2) := by
  have htrap : trapEncoding mdl w = false := by rw [trapEncoding_class4 hc, hs]; simp
  unfold decodeBit
  refine iteInduction (fun h7 => ?_) fun h7 => iteInduction (fun h3 => ?_) fun h3 => ?_
  · have hw : bitKCode op (fieldAr w) (fieldK w) = ⟨w, none⟩ := constCode_fields hc h11 hop h7
    exact of_one (hw ▸ .bitK ..) (by cases op <;> exact wellFormed_intro hs rfl) htrap
  all_goals rw [Bool.not_eq_true] at h7
  · exact of_format (.bitM ..) (fieldsWord_fields hc h11 hop h7 h3) (by simp [bitMCode])
      (by cases op <;> exact wellFormed_intro hs rfl) htrap
  · rw [Bool.not_eq_true] at h3
    exact of_format (.bitX ..) (fieldsWord_fields hc h11 hop h7 h3) (by simp [bitXCode])
      (by cases op <;> exact wellFormed_intro hs rfl) htrap

theorem move (hs : mdl.isScientific = true) (hc : fieldC w = 4) (h11 : w.getLsbD 11 = false)
    (hop : fieldOp w = 7) : Decoded mdl w w2 (decodeMove w) := by
  have htrap : trapEncoding mdl w = false := by rw [trapEncoding_class4 hc, hs]; simp
  unfold decodeMove
  generalize hmv : (if w.getLsbD 7 then (if w.getLsbD 3 then MoveOp.movn else .movp)
    else (if w.getLsbD 3 then .cplm else .negt)) = op
  have h7 : w.getLsbD 7 = op.bitI := by
    subst hmv; cases w.getLsbD 7 <;> cases w.getLsbD 3 <;> rfl
  have h3 : w.getLsbD 3 = op.bitJ := by
    subst hmv; cases w.getLsbD 7 <;> cases w.getLsbD 3 <;> rfl
  exact of_format (.move ..) (fieldsWord_fields hc h11 hop h7 h3) (by simp [moveCode])
    (by cases op <;> exact wellFormed_intro hs rfl) htrap

theorem class4Low (hc : fieldC w = 4) (h11 : w.getLsbD 11 = false) : Decoded mdl w w2 (decodeClass4Low mdl w w2) := by
  have htrap := trapEncoding_class4 (mdl := mdl) hc
  unfold decodeClass4Low
  refine iteInduction (fun hop => ?_) fun hop => iteInduction (fun hs => of_trap ?_) fun hs => ?_
  · replace htrap : trapEncoding mdl w = false := by rw [htrap, hop]; simp
    have hw : jumpCode (fieldAr w) (memOpOf w w2) = ⟨w, if w.getLsbD 3 then some w2 else none⟩ := memCode_fields hc h11 hop
    refine iteInduction (fun har => ?_) (fun har => ?_)
    · exact of_mem (hw ▸ har ▸ .jump _) rfl htrap
    · exact of_mem (hw ▸ .jsbr ..) (wellFormed_intro rfl (bne_iff_ne.mpr har)) htrap
  · rw [htrap, h11, hs]; simpa using hop
  · replace hs : mdl.isScientific = true := by simpa using hs
    cases hbit : bitOpOf (fieldOp w) with
    | some op => exact bitManipulation hs op hc h11 (bits_of_bitOpOf hbit)
    | none => exact move hs hc h11 (bitOpOf_eq_none _ hop hbit)

theorem class4 (hc : fieldC w = 4) : Decoded mdl w w2 (decodeClass4 mdl w w2) := by
  unfold decodeClass4
  refine iteInduction (fun h11 => ?_) (fun h11 => class4Low hc (by simpa using h11))
  have htrap : trapEncoding mdl w = false := by rw [trapEncoding_class4 hc, h11]; rfl
  have hop := (bits_grOpOf (fieldOp w)).symm
  generalize grOpOf (fieldOp w) = op at hop
  refine iteInduction (fun h7 => ?_) fun h7 => iteInduction (fun h3 => ?_) fun h3 => ?_
  · have hw : accImmCode op (fieldAr w) (fieldK w) = ⟨w, none⟩ := constCode_fields hc h11 hop h7
    exact of_one (hw ▸ .accImm ..) (by cases op <;> rfl) htrap
  all_goals rw [Bool.not_eq_true] at h7
  · exact of_format (.accLit ..) (fieldsWord_fields hc h11 hop h7 h3) (by simp [accLitCode]) (by cases op <;> rfl) htrap
  · rw [Bool.not_eq_true] at h3
    exact of_format (.accReg ..) (fieldsWord_fields hc h11 hop h7 h3) (by simp [accRegCode]) (by cases op <;> rfl) htrap

/-! ### Classes 8 and 9 -/

theorem branch {sense : Bool} (hc : fieldC w = if sense then 9 else 8) : Decoded mdl w w2 (branchRow sense w) := by
  have htrap := trapEncoding_branch (mdl := mdl) hc
  have of_row {t : BitVec 4} {i : Instr} (hf : Format (branchCode sense t (fieldD w)) i)
      (hw : Sys2Proof.wellFormed mdl i = true) (h13 : t.toNat < 13) (h : (fieldT w).toNat = t.toNat) :
      Decoded mdl w w2 i :=
    of_format hf (byteWord_fields hc (BitVec.eq_of_toNat_eq h) rfl) (by simp [branchCode]) hw
      (by rw [htrap, h]; simpa using h13)
  have of_cond (cond : Cond) (h : (fieldT w).toNat = cond.bits.toNat) :
      Decoded mdl w w2 (branchInstr sense cond (fieldD w)) :=
    of_row (.branch ..) (by cases sense <;> cases cond <;> rfl) (by cases cond <;> decide) h
  unfold branchRow
  split
  case h_1 h =>
    cases sense
    · exact of_row (t := 0) (.nopr _) rfl (by decide) h
    · exact of_row (t := 0) (.brun _) rfl (by decide) h
  case h_2 h => exact of_cond .eq h
  case h_3 h => exact of_cond .gt h
  case h_4 h => exact of_cond .ov h
  case h_5 h => exact of_cond .cy h
  case h_6 h => exact of_cond .f1 h
  case h_7 h => exact of_cond .f2 h
  case h_8 h => exact of_cond .f3 h
  case h_9 h => exact of_cond .lp h
  case h_10 h => exact of_cond .od h
  case h_11 h => exact of_cond .ze h
  case h_12 h => exact of_cond .ng h
  case h_13 h => exact of_cond .lt h
  case h_14 =>
    simp only [imp_false] at *
    exact of_trap (by rw [htrap]; simp only [decide_eq_true_eq]; omega)

/-! ### Class A -/

/-- The shifts with a constant count (R113, R405). -/
theorem shiftConstant {op : ShiftOp} (hc : fieldC w = 10) (hs : w.getLsbD 11 = true → mdl.isScientific = true)
    (hop : fieldOp w = op.bits) (h7 : w.getLsbD 7 = true) : Decoded mdl w w2
      (if w.getLsbD 11 then doubleShiftKInstr op (w.extractLsb' 5 2) (w.extractLsb' 0 5)
        else shiftKInstr op (fieldAr w) (fieldK w)) := by
  have htrap := trapEncoding_shift (mdl := mdl) hc
  rw [h7] at htrap
  refine iteInduction (fun h11 => ?_) (fun h11 => ?_)
  · exact of_one (doubleShiftKCode_fields hc h11 hop h7 ▸ .doubleShiftK ..)
      (by cases op <;> exact wellFormed_intro (hs h11) rfl) (by rw [htrap, h11, hs h11]; rfl)
  · rw [Bool.not_eq_true] at h11
    have hw : shiftKCode op (fieldAr w) (fieldK w) = ⟨w, none⟩ := constCode_fields hc h11 hop h7
    exact of_one (hw ▸ .shiftK ..) (by cases op <;> rfl) (by rw [htrap, h11]; simp)

/-- The words of class A with I = 0 and E = 1: a normalize for an even OP of a scientific model (R390). -/
theorem normalize (hc : fieldC w = 10) (h7 : w.getLsbD 7 = false) (h3 : w.getLsbD 3 = true) : Decoded mdl w w2
    (if mdl.isScientific && !w.getLsbD 8 then
      normalizeInstr (w.getLsbD 11) (normOpOf (fieldOp w)) (fieldAr w) (fieldXr w) else .trap w) := by
  have htrap := trapEncoding_shift (mdl := mdl) hc
  rw [h7, h3] at htrap
  refine iteInduction (fun h => ?_) fun h => of_trap ?_
  · obtain ⟨hs, h8⟩ := Bool.and_eq_true_iff.mp h
    rw [Bool.not_eq_true'] at h8
    have hop : fieldOp w = (normOpOf (fieldOp w)).bits := by
      refine (bits_normOpOf _ ?_).symm
      rw [← h8]; unfold fieldOp; grind
    refine of_format (.normalize ..) (fieldsWord_fields hc rfl hop h7 h3) (by simp [normalizeCode]) ?_
      (by rw [htrap, hs, h8]; rfl)
    generalize normOpOf (fieldOp w) = op
    cases w.getLsbD 11 <;> cases op <;> exact wellFormed_intro hs rfl
  · rw [htrap]
    cases hs : mdl.isScientific <;> simp_all

theorem shift (hc : fieldC w = 10) : Decoded mdl w w2 (decodeShift mdl w) := by
  have htrap := trapEncoding_shift (mdl := mdl) hc
  have hop := (bits_shiftOpOf (fieldOp w)).symm
  unfold decodeShift
  generalize shiftOpOf (fieldOp w) = op at hop ⊢
  refine iteInduction (fun h => of_trap ?_) fun hs => ?_
  · rw [htrap]; simp_all
  replace hs : w.getLsbD 11 = true → mdl.isScientific = true := fun h11 => by simpa [h11] using hs
  refine iteInduction (fun h7 => shiftConstant hc hs hop h7) fun h7 => iteInduction (fun h3 => ?_) fun h3 => ?_
  all_goals rw [Bool.not_eq_true] at h7
  · exact normalize hc h7 h3
  · rw [Bool.not_eq_true] at h3
    refine of_format (.shiftX ..) (fieldsWord_fields hc rfl hop h7 h3) (by simp [shiftXCode]) (wellFormed_intro ?_ ?_) ?_
    · cases h11 : w.getLsbD 11 with
      | false => cases op <;> rfl
      | true => cases op <;> exact hs h11
    · cases w.getLsbD 11 <;> cases op <;> rfl
    · rw [htrap, h7, h3]
      cases h11 : w.getLsbD 11 <;> simp_all

/-! ### Class B -/

theorem fixed (hc : fieldC w = 11) : Decoded mdl w w2 (decodeFixed mdl w w2) := by
  have htrap := trapEncoding_fixed (mdl := mdl) hc
  rw [Bool.or_assoc, ← fixedOpOf_isNone] at htrap
  unfold decodeFixed
  refine iteInduction (fun hs => of_trap ?_) fun hs => iteInduction (fun h11 => of_trap ?_) fun h11 => ?_
  · rw [htrap, hs]; rfl
  all_goals replace hs : mdl.isScientific = true := by simpa using hs
  · rw [htrap, hs, h11]; rfl
  rw [Bool.not_eq_true] at h11
  rw [hs, h11] at htrap
  cases hop : fixedOpOf (fieldOp w) with
  | none => rw [hop] at htrap; exact of_trap htrap
  | some op =>
    rw [hop] at htrap
    have hw : fixedCode op (fieldAr w) (memOpOf w w2) = ⟨w, if w.getLsbD 3 then some w2 else none⟩ :=
      memCode_fields hc h11 (bits_of_fixedOpOf hop)
    refine of_mem (hw ▸ .fixed ..) (wellFormed_intro ?_ ?_) htrap <;> generalize fieldAr w = ar
    · cases op <;> cases ar <;> exact hs
    · cases op <;> cases ar <;> rfl

/-! ### Class C -/

theorem decimal (hc : fieldC w = 12) : Decoded mdl w w2 (decodeDecimal mdl w w2) := by
  have htrap := trapEncoding_decimal (mdl := mdl) hc
  unfold decodeDecimal
  refine iteInduction (fun hd => of_trap ?_) fun hd => ?_
  · rw [htrap, hd]; rfl
  replace hd : mdl.isDecimal = true := by simpa using hd
  rw [hd] at htrap
  cases hop : decimalOpOf (fieldT w) with
  | none => rw [hop] at htrap; exact of_trap htrap
  | some op =>
    rw [hop] at htrap
    dsimp only
    unfold decodeDecimalRow
    refine iteInduction (fun h => of_trap ?_) fun h => ?_
    · rw [htrap]; simpa using h
    rw [Bool.not_eq_true] at h
    obtain ⟨h7, h3⟩ := Bool.or_eq_false_iff.mp h
    have hw : decimalCode op (fieldAr w) (fieldXr w) (decOperandsOf w2) = ⟨w, some w2⟩ := by
      rw [decimalCode, decOperandsWord_of, Code.mk.injEq]
      have hD := fieldD_eq w
      rw [fieldH3_eq, fieldK_eq, h7, h3] at hD
      refine ⟨Eq.trans ?_ (byteWord_fields hc (bits_of_decimalOpOf hop) hD), rfl⟩
      unfold byteWord; grind
    have hs := secondWord_decimal hd op (fieldAr w) (fieldXr w) (decOperandsOf w2)
    rw [hw] at hs
    have hcode := (Format.decimal op (fieldAr w) (fieldXr w) (decOperandsOf w2)).code_eq
    refine ⟨by rw [hcode, hw, hs]; rfl, fun h => ?_, fun ht => ?_⟩
    · obtain ⟨b7, b3⟩ := h.resolve_left (absurd hc)
      have ho : (!(decOperandsOf w2).bit7 && !(decOperandsOf w2).bit3) = true := by
        simp only [decOperandsOf, b7, b3]; rfl
      refine wellFormed_intro ?_ ?_
      · cases op <;> exact hd
      · cases op <;> exact ho
    · rw [htrap, h7, h3] at ht; cases ht

end Decoded

/-- What the decoder answers for any words but HALT's, of which it ignores the right byte. -/
theorem decoded_decode {mdl : Model} {w w2 : Word} (h : w.extractLsb' 8 8 ≠ 0) : Decoded mdl w w2 (decode mdl w w2) := by
  unfold decode
  split
  case h_1 hc =>
    have hc : fieldC w = 0 := BitVec.eq_of_toNat_eq hc
    exact .control hc fun ht => h (by rw [leftByte_eq, hc, ht]; rfl)
  case h_2 hc => exact .gr (cls := .storeDec) (BitVec.eq_of_toNat_eq hc)
  case h_3 hc => exact .gr (cls := .storeInc) (BitVec.eq_of_toNat_eq hc)
  case h_4 hc => exact .gr (cls := .store) (BitVec.eq_of_toNat_eq hc)
  case h_5 hc => exact .class4 (BitVec.eq_of_toNat_eq hc)
  case h_6 hc => exact .gr (cls := .loadDec) (BitVec.eq_of_toNat_eq hc)
  case h_7 hc => exact .gr (cls := .loadInc) (BitVec.eq_of_toNat_eq hc)
  case h_8 hc => exact .gr (cls := .load) (BitVec.eq_of_toNat_eq hc)
  case h_9 hc => exact .branch (sense := false) (BitVec.eq_of_toNat_eq hc)
  case h_10 hc => exact .branch (sense := true) (BitVec.eq_of_toNat_eq hc)
  case h_11 hc => exact .shift (BitVec.eq_of_toNat_eq hc)
  case h_12 hc => exact .fixed (BitVec.eq_of_toNat_eq hc)
  case h_13 hc => exact .decimal (BitVec.eq_of_toNat_eq hc)
  case h_14 =>
    simp only [imp_false] at *
    exact .of_trap (trapEncoding_reserved (by omega))

/-! ## Encoding after decoding -/

theorem fields_of_leftByte_zero {w : Word} (h : w.extractLsb' 8 8 = 0) : fieldC w = 0 ∧ fieldT w = 0 := by
  have hc : fieldC w = (w.extractLsb' 8 8).extractLsb' 4 4 := by unfold fieldC; grind
  have ht : fieldT w = (w.extractLsb' 8 8).extractLsb' 0 4 := by unfold fieldT; grind
  rw [hc, ht, h]
  exact ⟨rfl, rfl⟩

theorem decode_halt {mdl : Model} {w w2 : Word} (h : w.extractLsb' 8 8 = 0) : decode mdl w w2 = .halt := by
  obtain ⟨hc, ht⟩ := fields_of_leftByte_zero h
  rw [decode_eq_control hc, decodeControl, ht]
  rfl

theorem decode_eq_halt_iff {mdl : Model} {w w2 : Word} : decode mdl w w2 = .halt ↔ w.extractLsb' 8 8 = 0 := by
  refine ⟨fun h => by_contra fun h0 => ?_, decode_halt⟩
  have hcode := (decoded_decode (mdl := mdl) (w2 := w2) h0).code_eq
  rw [h] at hcode
  have hw : 0 = w := congrArg Code.first hcode
  exact h0 (hw ▸ rfl)

/-- Settles O2: by what the decoder answers, class by class. -/
theorem encodeDecode : Obligations.EncodeDecode := by
  intro mdl w w2
  refine ⟨decode_eq_halt_iff, fun h => (decoded_decode h).code_eq, fun hw => ?_⟩
  by_cases h : w.extractLsb' 8 8 = 0
  · rw [decode_halt h]; rfl
  · exact (decoded_decode h).wellFormed hw

/-- An encoding that a "(trap)" row takes is decoded as that row. -/
theorem decode_of_trapEncoding {mdl : Model} {w w2 : Word} (h : trapEncoding mdl w = true) :
    decode mdl w w2 = .trap w := by
  refine (decoded_decode fun h0 => ?_).trap h
  obtain ⟨hc, ht⟩ := fields_of_leftByte_zero h0
  rw [trapEncoding_control hc, ht] at h
  cases h

/-- The converse: a "(trap)" row is answered for its own word only, which is such an encoding but for the class C words whose
second word has a 1 in a bit shown as 0. -/
theorem eq_of_decode_trap {mdl : Model} {w w2 v : Word} (h : decode mdl w w2 = .trap v) :
    v = w ∧ (trapEncoding mdl w = true ∨ fieldC w = 12 ∧ (w2.getLsbD 7 = true ∨ w2.getLsbD 3 = true)) := by
  have h0 : w.extractLsb' 8 8 ≠ 0 := fun h0 => by rw [decode_halt h0] at h; cases h
  have hd := decoded_decode (mdl := mdl) (w2 := w2) h0
  rw [h] at hd
  have hv : v = w := congrArg Code.first hd.code_eq
  subst hv
  refine ⟨rfl, or_iff_not_imp_right.mpr fun hbits => implemented_of_wellFormed (hd.wellFormed ?_)⟩
  by_cases hc : fieldC v = 12
  · simpa [hc] using hbits
  · exact .inl hc

/-! ## Decoding after encoding -/

/-- Decoding the words of a format answers the instruction, where it is well formed. -/
theorem Format.decode_eq {c : Code} {i : Instr} {mdl : Model} (h : Format c i) (hw : wellFormed mdl i = true) :
    decode mdl c.first (c.second.getD 0) = i := by
  have hi := implemented_of_wellFormed hw
  have ho := operands_of_wellFormed hw
  cases h with
  | gr => exact decode_grCode ..
  | jump => exact decode_jumpCode ..
  | jsbr => exact (decode_jumpCode ..).trans (if_neg (bne_iff_ne.mp ho))
  | accReg => exact decode_accRegCode ..
  | accLit => exact decode_accLitCode ..
  | accImm => exact decode_accImmCode ..
  | nopr | brun => exact (decode_branchCode ..).trans (by simp [branchRow, branchCode])
  | branch sense cond d =>
    rw [decode_branchCode, branchRow_of_cond (cond := cond) (by simp [branchCode])]
    simp [branchCode]
  | shiftX double op => exact decode_shiftXCode (by rintro rfl; cases op <;> exact hi) ..
  | shiftK => exact decode_shiftKCode ..
  | doubleShiftK op => exact decode_doubleShiftKCode (by cases op <;> exact hi) ..
  | normalize double op => exact decode_normalizeCode (by cases double <;> cases op <;> exact hi) ..
  | halt => rfl
  | rsts | sets => exact decode_statusCode ..
  | enbl => exact decode_enbl ..
  | dsbl => exact decode_dsbl ..
  | enbw => exact (decode_enbw ..).trans (if_neg (bne_iff_ne.mp ho))
  | dsbw => exact (decode_dsbw ..).trans (if_neg (bne_iff_ne.mp ho))
  | waitE => exact decode_enbw ..
  | waitD => exact decode_dsbw ..
  | direct => exact decode_directCode ..
  | fclw | fclb => exact decode_fetchClearCode hi ..
  | skey => exact decode_skey hi ..
  | jkey => exact decode_jkey hi ..
  | lcpu => exact decode_lcpu hi ..
  | lkey => exact decode_lkey hi ..
  | bitX op => exact decode_bitXCode (by cases op <;> exact hi) ..
  | bitK op => exact decode_bitKCode (by cases op <;> exact hi) ..
  | bitM op => exact decode_bitMCode (by cases op <;> exact hi) ..
  | move op => exact decode_moveCode (by cases op <;> exact hi) ..
  | fixed op ar => exact decode_fixedCode (by cases op <;> cases ar <;> exact hi) ..
  | mlta ar => exact (decode_fixedCode hi ..).trans (if_neg (by simpa [operandsAllowed] using ho))
  | mult ar => exact (decode_fixedCode hi ..).trans (if_pos ho)
  | decimal op => exact decode_decimalCode (by cases op <;> exact hi) ..
  | trap => exact decode_of_trapEncoding hi

/-- The bytes of words whose first tells whether there is a second one are read as these words (R100, R104). -/
theorem decodeBytes_of_words {mdl : Model} {c : Code} (h : hasSecondWord mdl c.first = c.second.isSome) (rest : List Byte) :
    decodeBytes mdl (c.words.flatMap wordBytes ++ rest) = .ok (decode mdl c.first (c.second.getD 0), rest) := by
  obtain ⟨w, second⟩ := c
  cases second <;> simp_all [Code.words, wordBytes, decodeBytes, Machine.wordOfBytes_bytes]

/-- Settles O1: by the format of the instruction, its first word telling whether there is a second one. -/
theorem decodeEncode : Obligations.DecodeEncode := by
  intro mdl i rest hw
  rw [encodeBytes, encode, decodeBytes_of_words (hasSecondWord_code hw), (format_code i).decode_eq hw]

end Sys2Proof

/-! PROOF. The reserved encodings: the "(trap)" rows are those of R121 and R122, and what the decoder answers for them traps. -/

namespace Sys2Proof.Machine

/-! ## The lists of R121 and R122 -/

section
variable {mdl : Model} {w w2 : Word}

theorem eq_m1110_iff : mdl = .m1110 ↔ mdl.hasKey = false := by cases mdl <;> simp [Model.hasKey]

theorem fieldOp_eq_six_iff : fieldOp w = 6#3 ↔ fieldT w = 6#4 ∨ fieldT w = 14#4 := by
  rw [fieldOp_eq]
  generalize fieldT w = t
  revert t; decide

theorem source_or_decision_control (hc : fieldC w = 0) :
    SourceTraps mdl w ∨ DecisionTraps mdl w w2 ↔ trapEncoding mdl w = true := by
  rw [trapEncoding_control hc]
  by_cases ht : fieldT w = 8#4
  · by_cases h1 : fieldH3 w = 1#4
    · simp [SourceTraps, DecisionTraps, hc, eq_m1110_iff, fieldOp_eq_six_iff, ht, h1, or_assoc]
    · simp [SourceTraps, DecisionTraps, hc, eq_m1110_iff, fieldOp_eq_six_iff, ht, h1, and_assoc, ← and_or_left]
      exact or_comm
  · simp [SourceTraps, DecisionTraps, hc, eq_m1110_iff, fieldOp_eq_six_iff, ht, or_comm]

theorem source_or_decision_gr {cls : GrClass} (hc : fieldC w = cls.bits) :
    SourceTraps mdl w ∨ DecisionTraps mdl w w2 ↔ trapEncoding mdl w = true := by
  rw [trapEncoding_gr hc]
  cases cls <;> simp [SourceTraps, DecisionTraps, hc, GrClass.bits]

theorem source_or_decision_class4 (hc : fieldC w = 4) :
    SourceTraps mdl w ∨ DecisionTraps mdl w w2 ↔ trapEncoding mdl w = true := by
  rw [trapEncoding_class4 hc]
  simp [SourceTraps, DecisionTraps, hc, and_assoc]

theorem source_or_decision_branch {sense : Bool} (hc : fieldC w = if sense then 9 else 8) :
    SourceTraps mdl w ∨ DecisionTraps mdl w w2 ↔ trapEncoding mdl w = true := by
  rw [trapEncoding_branch hc]
  cases sense <;> simp [SourceTraps, DecisionTraps, hc]

theorem source_or_decision_shift (hc : fieldC w = 10) :
    SourceTraps mdl w ∨ DecisionTraps mdl w w2 ↔ trapEncoding mdl w = true := by
  rw [trapEncoding_shift hc]
  cases hs : mdl.isScientific <;> simp [SourceTraps, DecisionTraps, hc, hs, and_assoc]

/-- In class B the words with AR = 0 or 1 are no "(trap)" row: the instruction traps by its designator (R431). -/
theorem source_or_decision_fixed (hc : fieldC w = 11) : SourceTraps mdl w ∨ DecisionTraps mdl w w2 ↔
    trapEncoding mdl w = true ∨ (fieldAr w = .r0 ∨ fieldAr w = .r1) := by
  rw [trapEncoding_fixed hc]
  cases hs : mdl.isScientific <;> simp [SourceTraps, DecisionTraps, hc, hs]
  tauto

theorem decimalOpOf_eq_none_iff : ∀ t : BitVec 4, decimalOpOf t = none ↔ t ∈ [0, 1, 6, 7, 13, 14, 15] := by decide

/-- In class C the words with a 1 in a zero bit of the second word are no "(trap)" row: the instruction traps (R122). -/
theorem source_or_decision_decimal (hc : fieldC w = 12) : SourceTraps mdl w ∨ DecisionTraps mdl w w2 ↔
    trapEncoding mdl w = true ∨ (w2.getLsbD 7 = true ∨ w2.getLsbD 3 = true) := by
  rw [trapEncoding_decimal hc]
  simp [SourceTraps, DecisionTraps, hc, decimalOpOf_eq_none_iff]
  tauto

/-- The encodings that R121 and R122 list are those of the "(trap)" rows and the two forms that an instruction itself traps. -/
theorem source_or_decision_iff : SourceTraps mdl w ∨ DecisionTraps mdl w w2 ↔
    trapEncoding mdl w = true ∨ fieldC w = 11 ∧ (fieldAr w = .r0 ∨ fieldAr w = .r1) ∨
      fieldC w = 12 ∧ (w2.getLsbD 7 = true ∨ w2.getLsbD 3 = true) := by
  have classes : ∀ c : BitVec 4, c = 0 ∨
      (∃ cls ∈ [GrClass.storeDec, .storeInc, .store, .loadDec, .loadInc, .load], c = cls.bits) ∨ c = 4 ∨
      c = 8 ∨ c = 9 ∨ c = 10 ∨ c = 11 ∨ c = 12 ∨ 13 ≤ c.toNat := by decide
  rcases classes (fieldC w) with hc | ⟨cls, -, hc⟩ | hc | hc | hc | hc | hc | hc | hc
  · simp [source_or_decision_control hc, hc]
  · cases cls <;> simp [source_or_decision_gr hc, hc, GrClass.bits]
  · simp [source_or_decision_class4 hc, hc]
  · simp [source_or_decision_branch (sense := false) hc, hc]
  · simp [source_or_decision_branch (sense := true) hc, hc]
  · simp [source_or_decision_shift hc, hc]
  · simp [source_or_decision_fixed hc, hc]
  · simp [source_or_decision_decimal hc, hc]
  · exact ⟨fun _ => .inl (trapEncoding_reserved hc), fun _ => .inl (.inl hc)⟩
end

/-! ## The forms that an instruction itself traps -/

theorem exec_decimalInstr (op : DecimalOp) (reg1 reg2 : Reg) (o : DecOperands) (s : State) :
    ∃ two written body, exec (decimalInstr op reg1 reg2 o) s = decimal op two written reg1 reg2 o body s := by
  cases op <;> simp only [decimalInstr, exec, execZadd, zeroAndAdd, execAddd, addDecimal, execSubd, subtractDecimal, execCmpd,
    compareDecimal, execSftr, shiftDecimalRight, execSftl, shiftDecimalLeft, decimalShift, execMovr, moveRight, execMovl,
    moveLeft, execComp, compareFields] <;> exact ⟨_, _, _, rfl⟩

section
variable {s : State} (hb : BlockInMemory s .unimplemented)
include hb

theorem exec_fixedInstr_trapped {op : FixedOp} {ar : Reg} {m : MemOp} (h : ar = .r0 ∨ ar = .r1) :
    ∃ t, exec (fixedInstr op ar m) s = .next t ∧ Trapped (fixedCode op ar m).first s s t := by
  obtain ⟨t, ht, htr⟩ := execute_trapped (code := fixedCode op ar m) (body := fun _ s => .trap none s) rfl hb
  exact ⟨t, (exec_fixedInstr_low h).trans ((execute_of_trap rfl).symm.trans ht), htr⟩

/-- A class C instruction with a 1 in a zero bit of its second word traps before it is refused (R122, R322). -/
theorem decimal_trapped_of_bits {op : DecimalOp} {two : Bool} {written : Field → Field → List Word} {reg1 reg2 : Reg}
    {o : DecOperands} {body : Field → Field → State → Res Unit} (h : (o.bit7 || o.bit3) = true) :
    ∃ t, decimal op two written reg1 reg2 o body s = .next t ∧ Trapped (decimalCode op reg1 reg2 o).first s s t := by
  unfold decimal executeOn
  refine execute_trapped ?_ hb
  simp only [h, if_true]
  exact ite_self _

theorem exec_decimalInstr_trapped {op : DecimalOp} {reg1 reg2 : Reg} {o : DecOperands} (h : (o.bit7 || o.bit3) = true) :
    ∃ t, exec (decimalInstr op reg1 reg2 o) s = .next t ∧ Trapped (decimalCode op reg1 reg2 o).first s s t := by
  obtain ⟨two, written, body, he⟩ := exec_decimalInstr op reg1 reg2 o s
  rw [he]
  exact decimal_trapped_of_bits hb h
end

section
variable {mdl : Model} {w w2 : Word}

theorem decode_fixed_cases (hc : fieldC w = 11) :
    decode mdl w w2 = .trap w ∨ ∃ op, decode mdl w w2 = fixedInstr op (fieldAr w) (memOpOf w w2) := by
  rw [decode_eq_fixed hc, decodeFixed]
  split
  · exact .inl rfl
  split
  · exact .inl rfl
  cases fixedOpOf (fieldOp w) with
  | none => exact .inl rfl
  | some op => exact .inr ⟨op, rfl⟩

theorem decode_decimal_cases (hc : fieldC w = 12) : decode mdl w w2 = .trap w ∨
    ∃ op, decode mdl w w2 = decimalInstr op (fieldAr w) (fieldXr w) (decOperandsOf w2) := by
  rw [decode_eq_decimal hc, decodeDecimal]
  split
  · exact .inl rfl
  cases decimalOpOf (fieldT w) with
  | none => exact .inl rfl
  | some op =>
    dsimp only
    unfold decodeDecimalRow
    split
    · exact .inl rfl
    · exact .inr ⟨op, rfl⟩

theorem first_of_decode {c : Code} {i : Instr} (h : decode mdl w w2 = i) (hf : Format c i) (h0 : fieldC w ≠ 0) :
    c.first = w := by
  have hcode := (decoded_decode (mdl := mdl) (w2 := w2) fun h => h0 (fields_of_leftByte_zero h).1).code_eq
  rw [h, hf.code_eq] at hcode
  rw [hcode]
end

/-- Settles O5: by the row that takes the word, a "(trap)" row, or an instruction of class B or C that itself traps. -/
theorem reservedEncodingsTrap : Obligations.ReservedEncodingsTrap := by
  refine fun w w2 s => ⟨fun h hb => ?_, fun v hv => ?_⟩
  · rcases source_or_decision_iff.mp h with htrap | ⟨hc, har⟩ | ⟨hc, hbits⟩
    · rw [decode_of_trapEncoding htrap]; exact trapRow_trapped hb
    · rcases decode_fixed_cases (mdl := s.par.model) (w2 := w2) hc with hd | ⟨op, hd⟩
      · rw [hd]; exact trapRow_trapped hb
      · have hw := first_of_decode hd (.fixed ..) (by rw [hc]; decide)
        have ht := exec_fixedInstr_trapped hb (op := op) (m := memOpOf w w2) har
        rw [hd]; rwa [hw] at ht
    · rcases decode_decimal_cases (mdl := s.par.model) (w2 := w2) hc with hd | ⟨op, hd⟩
      · rw [hd]; exact trapRow_trapped hb
      · have hw := first_of_decode hd (.decimal ..) (by rw [hc]; decide)
        have ht := exec_decimalInstr_trapped hb (op := op) (reg1 := fieldAr w) (reg2 := fieldXr w)
          (o := decOperandsOf w2) (Bool.or_eq_true_iff.mpr hbits)
        rw [hd]; rwa [hw] at ht
  · obtain ⟨rfl, h⟩ := eq_of_decode_trap hv
    exact ⟨rfl, source_or_decision_iff.mpr (h.imp_right .inr)⟩

end Sys2Proof.Machine

/-! PROOF. Words written out, and LCPU and LKEY. -/

namespace Sys2Proof.Machine

/-- Settles O3: each word decodes by evaluation. -/
theorem knownWordsDecode : Obligations.KnownWordsDecode :=
  ⟨rfl, rfl, rfl, rfl, rfl, rfl, rfl, rfl, rfl, rfl, rfl, rfl, rfl, rfl, rfl, rfl, rfl, rfl, rfl, rfl, rfl⟩

theorem loadProcessorRegister_ok {xr : Reg} (h : xr ≠ .r0) (v : Word) (s : State) :
    loadProcessorRegister xr v s = .ok () (s.setReg xr v) := by
  cases xr with
  | r0 => exact absurd rfl h
  | r1 | r2 | r3 | r4 | r5 | r6 | r7 => rfl

theorem exec_lcpu {xr : Reg} {s : State} (hs : s.par.model.isScientific = true) : exec (.lcpu xr) s =
    execute (processorCode 2 xr) (fun _ s => loadProcessorRegister xr (s.par.cpuId.setWidth 16 <<< 5) s) s := by
  show loadCpuNumber xr s = _
  exact executeOn_of_implemented hs

theorem exec_lkey {xr : Reg} {s : State} (hs : s.par.model.isScientific = true) : exec (.lkey xr) s =
    execute (processorCode 3 xr) (fun _ s => loadProcessorRegister xr (s.key.setWidth 16) s) s := by
  show loadKey xr s = _
  exact executeOn_of_implemented hs

/-- Bits 6..5 are the processor number (R297). -/
theorem cpuNumber_eq : ∀ n : BitVec 2, n.setWidth 16 <<< 5 = BitVec.ofNat 16 (32 * n.toNat) := by decide

/-- Settles O41: the words by their format, then the register written or refused. -/
theorem processorLoadsComplete : Obligations.ProcessorLoadsComplete := by
  intro xr s hs
  refine ⟨by cases xr <;> rfl, by cases xr <;> rfl, fun hx => ⟨?_, ?_⟩, ?_, ?_⟩
  · rw [exec_lcpu hs, ← cpuNumber_eq]
    exact execute_of_ok (loadProcessorRegister_ok hx ..)
  · rw [exec_lkey hs, BitVec.ofNat_toNat]
    exact execute_of_ok (loadProcessorRegister_ok hx ..)
  · rw [exec_lcpu hs]; exact execute_of_refuse rfl
  · rw [exec_lkey hs]; exact execute_of_refuse rfl

end Sys2Proof.Machine

/-! PROOF. Address development: direct and indirect addresses, and the two traps that it raises. -/

namespace Sys2Proof.Machine

/-! ## Address development up to the reads -/

/-- The state in which the indirect reads are made: an autodecrement has been applied, an autoincrement has not (R147, R156). -/
def indexed (c : Ctx) (auto : AutoStep) (wd : Width) (m : MemOp) (s : State) : State :=
  match auto with
  | .dec => stepped c .dec wd m s
  | .none | .inc => s

section
variable {c : Ctx} {auto : AutoStep} {wd : Width} {m : MemOp} {s : State}

/-- The autodecrement changes neither memory nor what answers at an address. -/
theorem indexed_keeps (c : Ctx) (auto : AutoStep) (wd : Width) (m : MemOp) (s : State) :
    (indexed c auto wd m s).mem = s.mem ∧ ∀ a, (indexed c auto wd m s).site a = s.site a := by
  cases auto with
  | none | inc => exact ⟨rfl, fun _ => rfl⟩
  | dec =>
    obtain ⟨-, ⟨⟨-, hpar, -⟩, hkey, -⟩, hmem, -⟩ := stepIndex_keeps c m.xr (stepAmount .dec wd) s
    refine ⟨hmem, fun a => ?_⟩
    rw [indexed, stepped, State.site, hpar, hkey]; rfl

theorem indexEntered_of_ne {xr : Reg} (h : xr ≠ .r0) : indexEntered auto wd xr s =
    if auto = .dec then s.reg xr - operandSize wd else s.reg xr := by
  cases xr with
  | r0 => exact absurd rfl h
  | r1 | r2 | r3 | r4 | r5 | r6 | r7 => cases auto <;> rfl

/-- The index that enters the sum is the register's content there (R147, R148). -/
theorem indexValue_indexed (c : Ctx) (auto : AutoStep) (wd : Width) (m : MemOp) (s : State) :
    indexValue m.xr (indexed c auto wd m s) = indexEntered auto wd m.xr s := by
  by_cases hx : m.xr = .r0
  · rw [hx]; rfl
  rw [indexValue_of_ne _ _ hx, indexEntered_of_ne hx]
  cases auto with
  | none | inc => rfl
  | dec =>
    rw [indexed, stepped, stepIndex_of_ne _ _ _ _ hx, State.reg_setReg_self, if_pos rfl, stepAmount, BitVec.sub_eq_add_neg]

/-- Address development: an autodecrement, the reads from D0, an autoincrement (R150). -/
theorem effectiveAddress_eq (h : noAddress m = false) :
    effectiveAddress c auto wd m s =
      (resolveIndirect wd m.ind (developed auto wd m s) (indexed c auto wd m s)).bind fun a u =>
        .ok a (if auto = .inc then stepIndex c m.xr (stepSize wd) u else u) := by
  have hneg : stepAmount .dec wd = -stepSize wd := by rw [stepAmount, stepSize_eq]
  rw [developed, ← indexValue_indexed c]
  cases auto <;> simp only [effectiveAddress, h, indexed, stepped, hneg] <;> rfl

/-- Reads that change nothing give the address, and the automatic step is made. -/
theorem effectiveAddress_of_reads {a : Word} (h : noAddress m = false)
    (hr : resolveIndirect wd m.ind (developed auto wd m s) (indexed c auto wd m s) = .ok a (indexed c auto wd m s)) :
    effectiveAddress c auto wd m s = .ok a (stepped c auto wd m s) := by
  rw [effectiveAddress_eq h, hr, Res.bind_ok]
  cases auto with
  | none | dec => rfl
  | inc => rw [if_pos rfl, stepSize_eq]; rfl

end

/-! ## Direct and indirect addresses -/

/-- Settles O15: no read is made, so that M is D0. -/
theorem directAddresses : Obligations.DirectAddresses := by
  intro c auto wd m s hn hi
  refine ⟨effectiveAddress_of_reads hn ?_, fun hx => ?_, fun hx ha hp => ?_, rfl, rfl, rfl, rfl, rfl, rfl⟩
  · rw [hi]; rfl
  · cases auto with
    | none => rfl
    | inc | dec => exact stepIndex_of_ne _ _ _ _ hx
  · have hstep (amount : Word) : stepIndex c .r0 amount s = s.setPc (c.next + amount) := by
      simp only [stepIndex, dataReg, hp]; rfl
    cases auto with
    | none => exact absurd rfl ha
    | inc | dec => rw [stepped, hx, hstep]

/-- A chain ends at its first pointer with bit 0 = 0 (R153). -/
theorem indirectChain_ends (n : Nat) : ∀ {fuel : Nat} {d : Word} {s : State}, n ≤ fuel →
    (∀ k < n, (pointer s d k).getLsbD 0 = true ∧ InMemory s .word (pointer s d k)) →
    (pointer s d n).getLsbD 0 = false → indirectChain fuel (pointer s d 0) s = .ok (pointer s d n) s := by
  induction n with
  | zero =>
    intro fuel d s _ _ hlast
    cases fuel <;> rw [indirectChain, hlast, if_neg Bool.false_ne_true]
  | succ n ih =>
    intro fuel d s hfuel hchain hlast
    obtain ⟨fuel, rfl⟩ : ∃ f, fuel = f + 1 := ⟨fuel - 1, by omega⟩
    obtain ⟨hbit, hmem⟩ := hchain 0 (Nat.succ_pos n)
    rw [indirectChain, if_pos hbit, busRead_memory hmem, Res.bind_ok, ← pointer_shift]
    refine ih (d := pointer s d 0) (by omega) (fun k hk => ?_) ?_ <;> rw [pointer_shift]
    · exact hchain (k + 1) (by omega)
    · exact hlast

/-- The first read gives the first pointer (R153). -/
theorem resolveIndirect_memory {wd : Width} {d : Word} {s : State} (h : InMemory s .word d) :
    resolveIndirect wd true d s =
      match wd with
      | .word => indirectChain 14 (pointer s d 0) s
      | .byte => .ok (pointer s d 0) s := by
  rw [resolveIndirect, if_pos rfl, busRead_memory h, Res.bind_ok]
  rfl

/-- Settles O16: by the width, since only words have a chain. -/
theorem indirectAddresses : Obligations.IndirectAddresses := by
  intro c auto m s n hn hi hle
  refine ⟨fun hd hchain hlast => ?_, fun hd => ?_⟩
  · obtain ⟨hmem, hsite⟩ := indexed_keeps c auto .word m s
    have hp := pointer_of_mem hmem (developed auto .word m s)
    refine effectiveAddress_of_reads hn ?_
    rw [hi, resolveIndirect_memory (hd.of_site hsite), ← hp n]
    refine indirectChain_ends n hle (fun k hk => ?_) (by rwa [hp])
    obtain ⟨hbit, hread⟩ := hchain k hk
    rw [hp]
    exact ⟨hbit, hread.of_site hsite⟩
  · obtain ⟨hmem, hsite⟩ := indexed_keeps c auto .byte m s
    refine effectiveAddress_of_reads hn ?_
    rw [hi, resolveIndirect_memory (hd.of_site hsite), pointer_of_mem hmem]

/-! ## A trap during address development -/

/-- The instructions of classes 1, 2 and 3 are the stores. -/
theorem exec_store {cls : GrClass} (hc : cls ∈ [GrClass.store, .storeInc, .storeDec]) (wd : Width) (op : GrOp) (ar : Reg)
    (m : MemOp) (s : State) : exec (grInstr cls wd op ar m) s = grStore cls wd op ar m s := by
  simp only [List.mem_cons, List.not_mem_nil, or_false] at hc
  rcases hc with rfl | rfl | rfl <;> cases wd <;> cases op <;> rfl

/-- A class B instruction is the shared operation with a test of its register: a pair, or an odd register of MULT (R431). -/
theorem exec_fixedInstr (op : FixedOp) (ar : Reg) (m : MemOp) (s : State) :
    ∃ ok body, exec (fixedInstr op ar m) s = fixedPoint op ok ar m body s ∧
      (isPair ar = true ∨ op = .mult ∧ ar ∈ [.r3, .r5, .r7] → ok ar = true) := by
  cases op with
  | dsta | dsub | dadd | divd | dlod => exact ⟨isPair, _, rfl, fun h => h.resolve_right fun ⟨h, _⟩ => nomatch h⟩
  | mult =>
    cases ho : ar.isOdd with
    | true =>
      have he : exec (fixedInstr .mult ar m) s = multiply ar m s := by rw [fixedInstr, ho]; rfl
      exact ⟨Reg.isOdd, _, he, fun _ => ho⟩
    | false =>
      have he : exec (fixedInstr .mult ar m) s = multiplyAdd ar m s := by rw [fixedInstr, ho]; rfl
      refine ⟨isPair, _, he, fun h => h.resolve_right fun ⟨_, h⟩ => ?_⟩
      cases ar <;> simp [Reg.isOdd] at ho h

/-- The address development of an instruction of these words in `s` traps and leaves `v`. -/
def AddressTraps (code : Code) (auto : AutoStep) (wd : Width) (m : MemOp) (s v : State) : Prop :=
  effectiveAddress (contextOf code s) auto wd m (startOf code s) = .trap none v

section
variable {auto : AutoStep} {wd : Width} {m : MemOp} {ar : Reg} {s v : State}

theorem exec_gr_of_trap {cls : GrClass} {op : GrOp}
    (h : AddressTraps (grCode cls wd op ar m) (autoStep cls) wd m s v) :
    exec (grInstr cls wd op ar m) s = raiseUnimplemented s.pc (grCode cls wd op ar m).first none v := by
  cases cls with
  | load | loadInc | loadDec =>
    rw [exec_load (by decide)]
    exact execute_of_trap (by rw [h]; rfl)
  | store | storeInc | storeDec =>
    rw [exec_store (by decide)]
    exact execute_of_trap (by rw [h]; rfl)

theorem exec_jump_of_trap (h : AddressTraps (jumpCode .r0 m) .none .word m s v) :
    exec (.jump m) s = raiseUnimplemented s.pc (jumpCode .r0 m).first none v := by
  show jumpTo m s = _
  unfold jumpTo
  exact execute_of_trap (by rw [h]; rfl)

theorem exec_jsbr_of_trap (h : AddressTraps (jumpCode ar m) .none .word m s v) :
    exec (.jsbr ar m) s = raiseUnimplemented s.pc (jumpCode ar m).first none v := by
  show jumpLink ar m s = _
  unfold jumpLink
  exact execute_of_trap (by rw [h]; rfl)

theorem fetchAndClear_of_trap (hk : s.par.model.hasKey = true) (h : AddressTraps (fetchClearCode wd ar m) .none wd m s v) :
    fetchAndClear wd ar m s = raiseUnimplemented s.pc (fetchClearCode wd ar m).first none v := by
  rw [fetchAndClear, executeOn_of_implemented hk]
  exact execute_of_trap (by rw [h]; rfl)

theorem exec_fixed_of_trap {op : FixedOp} (hs : s.par.model.isScientific = true) (hn : noAddress m = false)
    (hr : isPair ar = true ∨ op = .mult ∧ ar ∈ [.r3, .r5, .r7]) (h : AddressTraps (fixedCode op ar m) .none .word m s v) :
    exec (fixedInstr op ar m) s = raiseUnimplemented s.pc (fixedCode op ar m).first none v := by
  obtain ⟨ok, body, he, hok⟩ := exec_fixedInstr op ar m s
  have h01 : ¬(ar = .r0 ∨ ar = .r1 ∨ noAddress m = true) := by
    rw [hn]
    rintro (rfl | rfl | h)
    · exact absurd hr (by simp [isPair])
    · exact absurd hr (by simp [isPair])
    · cases h
  rw [he, fixedPoint, executeOn_of_implemented hs]
  refine execute_of_trap ?_
  rw [onAccumulator, if_neg h01, if_pos (hok hr), h]
  rfl

/-- An instruction whose address development traps takes the trap from the state that this leaves. -/
theorem exec_of_addressTrap {i : Instr} {opened : List Reg} {mask : Word}
    (hd : DevelopsAddress s.par.model i auto wd m opened mask) (hn : noAddress m = false)
    (h : AddressTraps (code i) auto wd m s v) : exec i s = raiseUnimplemented s.pc (code i).first none v := by
  rcases hd with ⟨cls, op, ar, rfl, rfl, -⟩ | ⟨rfl, ⟨rfl | ⟨ar, rfl⟩, rfl, -⟩ |
    ⟨ar, hk, ⟨rfl, rfl⟩ | ⟨rfl, rfl⟩, -⟩ | ⟨op, ar, hs, hr, rfl, rfl, -⟩⟩
  · rw [(Format.gr cls wd op ar m).code_eq] at h ⊢
    exact exec_gr_of_trap h
  · exact exec_jump_of_trap h
  · exact exec_jsbr_of_trap h
  · exact fetchAndClear_of_trap ((Model.hasKey_iff _).mpr hk) h
  · exact fetchAndClear_of_trap ((Model.hasKey_iff _).mpr hk) h
  · rw [(Format.fixed op ar m).code_eq] at h ⊢
    exact exec_fixed_of_trap hs hn hr h

end

/-- Settles O17: the fifteen reads trap, and the instruction takes the trap from there. -/
theorem indirectLimitTraps : Obligations.IndirectLimitTraps := by
  intro i auto m opened mask s hn hi hd c d0 u hchain hb
  obtain ⟨hmem, hpar, hkey, -, he⟩ := effectiveAddress_indirect (code := code i) (auto := auto) (wd := .word) hn hi
  have hlimit : resolveIndirect .word true d0 u = .trap none u := by
    refine resolveIndirect_limit fun k hk => ?_
    obtain ⟨hread, hbit⟩ := hchain k hk
    rw [readAddress_of_mem hmem, pointer_of_mem hmem]
    exact ⟨hread.of_site fun a => by rw [State.site, hpar, hkey]; rfl, hbit⟩
  have htrap : AddressTraps (code i) auto .word m s u := by
    rw [AddressTraps, he, hlimit]; rfl
  rw [exec_of_addressTrap hd hn htrap]
  exact raiseUnimplemented_done hpar (hb.of_same hpar hkey)

/-! ## No address -/

section
variable {m : MemOp} {ar : Reg} {s : State} (hn : noAddress m = true)
include hn

theorem addressTraps_of_noAddress (code : Code) (auto : AutoStep) (wd : Width) :
    AddressTraps code auto wd m s (startOf code s) := effectiveAddress_noAddress hn

/-- A model without the key instructions traps them all the same. -/
theorem fetchAndClear_of_noAddress {wd : Width} : fetchAndClear wd ar m s =
    raiseUnimplemented s.pc (fetchClearCode wd ar m).first none (startOf (fetchClearCode wd ar m) s) := by
  cases hk : s.par.model.hasKey with
  | true => exact fetchAndClear_of_trap hk (addressTraps_of_noAddress hn ..)
  | false => exact executeOn_of_not hk

/-- The trap comes before the test of the register (log 13), and on every model. -/
theorem exec_fixed_of_noAddress {op : FixedOp} : exec (fixedInstr op ar m) s =
    raiseUnimplemented s.pc (fixedCode op ar m).first none (startOf (fixedCode op ar m) s) := by
  obtain ⟨ok, body, he, -⟩ := exec_fixedInstr op ar m s
  rw [he, fixedPoint]
  cases hs : s.par.model.isScientific with
  | true =>
    rw [executeOn_of_implemented hs]
    exact execute_of_trap (if_pos (.inr (.inr hn)))
  | false => exact executeOn_of_not hs

end

/-- A trap from the start of an instruction has changed nothing but by its entry. -/
theorem Trapped.of_startOf {w : Word} {code : Code} {s t : State} (h : Trapped w s (startOf code s) t) :
    Trapped w s s t := by
  obtain ⟨ret, hret, hd⟩ := h
  exact ⟨ret, hret, hd.of_same (fun r hr => startOf_reg _ _ _ hr) rfl rfl rfl rfl rfl rfl rfl rfl⟩

/-- Settles O18: by the kind of instruction, each of which traps from its start. -/
theorem noAddressTraps : Obligations.NoAddressTraps := by
  intro i m s hn hb hi
  have hexec : exec i s = raiseUnimplemented s.pc (code i).first none (startOf (code i) s) := by
    rcases hi with ⟨cls, wd, op, ar, rfl⟩ | rfl | ⟨ar, rfl⟩ | ⟨ar, rfl | rfl⟩ | ⟨op, ar, rfl⟩
    · rw [(Format.gr cls wd op ar m).code_eq]
      exact exec_gr_of_trap (addressTraps_of_noAddress hn ..)
    · exact exec_jump_of_trap (addressTraps_of_noAddress hn ..)
    · exact exec_jsbr_of_trap (addressTraps_of_noAddress hn ..)
    · exact fetchAndClear_of_noAddress hn
    · exact fetchAndClear_of_noAddress hn
    · rw [(Format.fixed op ar m).code_eq]
      exact exec_fixed_of_noAddress hn
  obtain ⟨t, ht, htr⟩ := raiseUnimplemented_done (w := (code i).first) (s := s) (u := startOf (code i) s) rfl hb
  exact ⟨t, hexec.trans ht, htr.of_startOf⟩

end Sys2Proof.Machine

/-! PROOF. The general operations: their indicators, and classes 1, 2, 3, 5, 6 and 7 as a whole. -/

namespace Sys2Proof.Machine

/-! ## The indicators of a general operation -/

theorem nzoOf_setNZO (r st : Word) : NzoOf r (setNZO st r) := by
  refine ⟨?_, ?_, flag_putFlag_self ..⟩
  · simp only [setNZO, flag_putFlag, reduceCtorEq, if_false, if_true]
  · simp only [setNZO, flag_putFlag, reduceCtorEq, if_false, if_true]; rfl

/-- A carry out of t + ~s + 1 is no borrow (R175, D5). -/
theorem subCarry_eq (src tgt : Word) : subCarry src tgt = decide (src.toNat ≤ tgt.toNat) := by
  have hs := src.isLt
  rw [subCarry, BitVec.toNat_not]
  exact decide_eq_decide.mpr (by omega)

theorem addOverflow_eq (src tgt : Word) : addOverflow src tgt = outOfRange 16 (tgt.toInt + src.toInt) := by
  have h : addOverflow src tgt = tgt.saddOverflow src := (BitVec.saddOverflow_eq tgt src).symm
  rw [h, BitVec.saddOverflow, Bool.or_comm]; rfl

theorem subOverflow_eq (src tgt : Word) : subOverflow src tgt = outOfRange 16 (tgt.toInt - src.toInt) := by
  have h : subOverflow src tgt = tgt.ssubOverflow src := by
    rw [BitVec.ssubOverflow_eq]
    show (tgt.msb != src.msb && (tgt - src).msb != tgt.msb) = _
    cases tgt.msb <;> cases src.msb <;> cases (tgt - src).msb <;> rfl
  rw [h, BitVec.ssubOverflow, Bool.or_comm]; rfl

/-- The status that an addition or subtraction writes: CY, OV if it overflows, and NG, ZE, OD (R175, R176). -/
theorem flags_of_sum (st r : Word) (cy ov : Bool) :
    let st' := setNZO (stickyOv (putFlag st .cy cy) ov) r
    NzoOf r st' ∧ flag st' .cy = cy ∧ flag st' .ov = (flag st .ov || ov) := by
  refine ⟨nzoOf_setNZO .., ?_, ?_⟩
  · rw [(setNZO_same ..).flag_eq (by decide), (stickyOv_same ..).flag_eq (by decide), flag_putFlag_self]
  · rw [(setNZO_same ..).flag_eq (by decide), flag_stickyOv, (putFlag_same ..).flag_eq (by decide)]

/-- The status that the operation computes holds the indicators that the rules give (R174 to R181). -/
theorem opFlags_aluStatus (op : GrOp) (src tgt st : Word) : OpFlags op src tgt st (aluStatus op src tgt st) := by
  cases op with
  | mov | and | ior | eor | tst => exact nzoOf_setNZO ..
  | add =>
    obtain ⟨hnzo, hcy, hov⟩ := flags_of_sum st (tgt + src) (addCarry src tgt) (addOverflow src tgt)
    exact ⟨hnzo, hcy, hov.trans (by rw [addOverflow_eq])⟩
  | sub =>
    obtain ⟨hnzo, hcy, hov⟩ := flags_of_sum st (tgt - src) (subCarry src tgt) (subOverflow src tgt)
    exact ⟨hnzo, hcy.trans (subCarry_eq ..), hov.trans (by rw [subOverflow_eq])⟩
  | cmp =>
    refine ⟨?_, flag_putFlag_self ..⟩
    simp only [aluStatus, setCompare, flag_putFlag, reduceCtorEq, if_false, if_true]; rfl

/-- LP is no indicator of an operation. -/
theorem OpFlags.of_loopBit {op : GrOp} {auto : AutoStep} {src tgt st st' st'' : Word} (h : OpFlags op src tgt st st')
    (hb : SameBitsBut (loopBit auto) st' st'') : OpFlags op src tgt st st'' := by
  have hflag (i : Indicator) (hi : i ≠ .lp) : flag st'' i = flag st' i :=
    hb.flag_eq (by
      cases auto with
      | none => exact BitVec.getLsbD_zero
      | inc | dec => exact (mask_getLsbD .lp i).trans (decide_eq_false hi))
  cases op <;> simpa [OpFlags, NzoOf, hflag] using h

/-! ## The parts of a general register instruction -/

section
variable {c : Ctx} {op : GrOp} {auto : AutoStep} {ar xr : Reg} {src tgt : Word} {overwritten b : Bool} {s : State}

theorem loopComplete_reg (r : Reg) : (loopComplete auto overwritten b s).reg r = s.reg r := by
  cases auto <;> cases overwritten <;> rfl

/-- LP says whether the stepped register is zero, where the operation has not overwritten it (R158). -/
theorem loopComplete_lp (h : auto ≠ .none) : flag (loopComplete auto false b s).st .lp = b := by
  cases auto with
  | none => exact absurd rfl h
  | inc | dec => exact flag_putFlag_self ..

theorem loopComplete_same : SameBut [] (loopBit auto) [] s (loopComplete auto overwritten b s) := by
  cases auto with
  | none => exact .refl ..
  | inc | dec =>
    cases overwritten with
    | true => exact freeStatus_same Indicator.lp.mask s
    | false => exact setSt_same (putFlag_same s.st .lp b)

/-- The indicators of the operation, then LP. -/
theorem SameBut.loopComplete {regs : List Reg} {bytes : List Word} {v : State} (h : SameBut regs (affected op) bytes s v) :
    SameBut regs (affected op ||| loopBit auto) bytes s (loopComplete auto overwritten b v) :=
  (h.mono (List.Subset.refl _) (by cases op <;> cases auto <;> decide) (List.Subset.refl _)).trans
    (loopComplete_same.mono (List.nil_subset _) (by cases op <;> cases auto <;> decide) (List.nil_subset _))

theorem applyToReg_st : (applyToReg op ar src tgt s).st = aluStatus op src tgt s.st := by
  unfold applyToReg; dsimp only; split <;> rfl

theorem applyToReg_reg_self (h : stores op = true) : (applyToReg op ar src tgt s).reg ar = aluResult op src tgt := by
  rw [← storesResult_eq] at h
  rw [applyToReg, if_pos h, State.reg_setReg_self]

theorem applyToReg_reg_other {r : Reg} (h : stores op = false ∨ r ≠ ar) :
    (applyToReg op ar src tgt s).reg r = s.reg r := by
  unfold applyToReg; dsimp only
  split
  · rename_i hst
    rw [storesResult_eq] at hst
    rw [State.reg_setReg_ne _ _ _ _ (h.resolve_left (by simp [hst]))]; rfl
  · rfl

theorem setReg_same (s : State) (r : Reg) (v : Word) : SameBut [r] 0 [] s (s.setReg r v) :=
  ⟨fun _ _ hq => State.reg_setReg_ne _ _ _ _ fun he => hq (he ▸ List.mem_cons_self), rfl, fun _ _ => rfl,
    ⟨⟨rfl, rfl, rfl⟩, rfl, rfl⟩, rfl, rfl⟩

theorem applyToReg_same :
    SameBut (if stores op then [ar] else []) (affected op) [] s (applyToReg op ar src tgt s) := by
  have hst := setSt_same (aluStatus_same op src tgt s.st)
  rw [applyToReg, storesResult_eq]
  cases stores op with
  | false => exact hst
  | true => exact (hst.mono (by simp) (by simp) (by simp)).trans ((setReg_same ..).mono (by simp) (by simp) (by simp))

/-- The accumulator other than register 0 is its content as it stands after address development (R157, D16). -/
theorem accumulator_of_ne (h : ar ≠ .r0) : accumulator c auto ar xr s = (s.reg ar, s) := by
  rw [accumulator, if_neg (by simp [h]), dataReg_of_ne _ _ _ h]

/-- Reading the accumulator changes at most the count of free values. -/
theorem accumulator_state (c : Ctx) (auto : AutoStep) (ar xr : Reg) (s : State) :
    (accumulator c auto ar xr s).2 = s ∨ (accumulator c auto ar xr s).2 = s.countFree := by
  unfold accumulator
  split
  · exact .inl rfl
  · exact dataReg_state c ar s

/-- MOV, which does not read its target, does the same with the accumulator as any other value (R174). -/
theorem applyToReg_targetOperand (c : Ctx) (op : GrOp) (auto : AutoStep) (ar xr : Reg) (s : State) :
    ∃ u, (u = s ∨ u = s.countFree) ∧
      applyToReg op ar src (targetOperand c op auto ar xr s).1 (targetOperand c op auto ar xr s).2 =
        applyToReg op ar src (accumulator c auto ar xr s).1 u := by
  cases op with
  | mov => exact ⟨s, .inl rfl, rfl⟩
  | sub | add | and | ior | eor | cmp | tst => exact ⟨_, accumulator_state c auto ar xr s, rfl⟩

theorem sameBut_of_countFree {u : State} (h : u = s ∨ u = s.countFree) : SameBut [] 0 [] s u := by
  rcases h with rfl | rfl
  · exact .refl ..
  · exact ⟨fun _ _ _ => rfl, rfl, fun _ _ => rfl, ⟨⟨rfl, rfl, rfl⟩, rfl, rfl⟩, rfl, rfl⟩

theorem reg_of_countFree {u : State} (h : u = s ∨ u = s.countFree) (r : Reg) : u.reg r = s.reg r := by
  rcases h with rfl | rfl <;> rfl

theorem st_of_countFree {u : State} (h : u = s ∨ u = s.countFree) : u.st = s.st := by
  rcases h with rfl | rfl <;> rfl

end

/-! ## What an instruction keeps of the state that it starts in -/

/-- A device was accessed, or memory and the log of accesses are the same. -/
def QuietMemory (s t : State) : Prop :=
  s.deviceLog.length < t.deviceLog.length ∨ t.mem = s.mem ∧ t.deviceLog = s.deviceLog

theorem QuietMemory.trans {s t u : State} (h : QuietMemory s t) (g : QuietMemory t u) : QuietMemory s u := by
  rcases h with h | ⟨hm, hl⟩
  · rcases g with g | ⟨-, gl⟩
    · exact .inl (h.trans g)
    · exact .inl (gl ▸ h)
  · rcases g with g | ⟨gm, gl⟩
    · exact .inl (hl ▸ g)
    · exact .inr ⟨gm.trans hm, gl.trans hl⟩

theorem Quiet.memory {s t : State} (h : Quiet s t) : QuietMemory s t := by
  rcases h with rfl | h
  · exact .inr ⟨rfl, rfl⟩
  · exact .inl h

theorem QuietMemory.byteAt {s t : State} (h : QuietMemory s t) (hl : t.deviceLog = s.deviceLog) (b : Nat) :
    t.byteAt b = s.byteAt b := by
  rcases h with h | ⟨hm, -⟩
  · rw [hl] at h; exact absurd h (lt_irrefl _)
  · rw [State.byteAt, hm]; rfl

theorem stepIndex_quietMemory (c : Ctx) (xr : Reg) (amount : Word) (s : State) :
    QuietMemory s (stepIndex c xr amount s) := by
  obtain ⟨-, -, hmem, ⟨-, hlog⟩, -⟩ := stepIndex_keeps c xr amount s
  exact .inr ⟨hmem, hlog⟩

theorem effectiveAddress_quietMemory {c : Ctx} {auto : AutoStep} {wd : Width} {m : MemOp} {s t : State} {a : Word}
    (h : effectiveAddress c auto wd m s = .ok a t) : QuietMemory s t := by
  obtain ⟨hn, -⟩ := effectiveAddress_keeps h
  rw [effectiveAddress_eq hn] at h
  obtain ⟨b, u, hr, ht⟩ := Res.bind_eq_ok.mp h
  cases ht
  have hreads := (resolveIndirect_quiet hr).memory
  cases auto with
  | none => exact hreads
  | inc => exact hreads.trans (stepIndex_quietMemory ..)
  | dec => exact (stepIndex_quietMemory ..).trans hreads

theorem SameControl.trans {s t u : State} (h : SameControl s t) (g : SameControl t u) : SameControl s u := by
  obtain ⟨⟨h1, h2, h3⟩, h4, h5⟩ := h
  obtain ⟨⟨g1, g2, g3⟩, g4, g5⟩ := g
  exact ⟨⟨g1.trans h1, g2.trans h2, g3.trans h3⟩, g4.trans h4, g5.trans h5⟩

/-- The frame of an instruction that develops its address, makes at most reads of its operand from there, and then leaves all
but some registers, status bits and bytes the same. -/
theorem frame_of_addressed {code : Code} {auto : AutoStep} {wd : Width} {m : MemOp} {s s1 s2 t : State} {a : Word}
    {regs : List Reg} {mask : Word} {bytes : List Word}
    (he : effectiveAddress (contextOf code s) auto wd m (startOf code s) = .ok a s1) (hc : SameCore s1 s2)
    (hq : QuietMemory s1 s2) (h : SameBut regs mask bytes s2 t) :
    SameBitsBut mask s.st t.st ∧ SameRegsBut (regs ++ if auto = .none then [] else [m.xr]) s t ∧ SameControl s t ∧
      QuietMemoryBut bytes s t := by
  obtain ⟨hregs, hst, hmem, hctl, -, hlog⟩ := h
  obtain ⟨-, hst1, hctl1, -, hregs1⟩ := effectiveAddress_keeps he
  have hst2 : s2.st = s.st := hc.2.1.trans hst1
  refine ⟨hst2 ▸ hst, fun r h0 hr => ?_, (hctl1.trans hc.control).trans hctl, fun hl b hb => ?_⟩
  · obtain ⟨hr1, hr2⟩ : r ∉ regs ∧ r ∉ (if auto = .none then [] else [m.xr]) := by simpa using hr
    have hstep : auto = .none ∨ r ≠ m.xr := by
      by_cases ha : auto = .none
      · exact .inl ha
      · exact .inr (by simpa [ha] using hr2)
    rw [hregs r h0 hr1, hc.reg, hregs1 r hstep, startOf_reg _ _ _ h0]
  · have hquiet : QuietMemory (startOf code s) s2 := (effectiveAddress_quietMemory he).trans hq
    exact (hmem b hb).trans (hquiet.byteAt (hlog.symm.trans hl) b)

/-! ## Classes 5, 6 and 7 -/

section
variable {cls : GrClass} {wd : Width} {op : GrOp} {ar : Reg} {m : MemOp} {s s1 s2 : State} {a src : Word}

/-- A load whose operand is read completes with the operation on the accumulator (R172, R182 to R184). -/
theorem grLoad_of_read
    (he : effectiveAddress (contextOf (grCode cls wd op ar m) s) (autoStep cls) wd m (startOf (grCode cls wd op ar m) s) =
      .ok a s1)
    (hr : busRead wd a s1 = .ok src s2) :
    ∃ u, (u = s2 ∨ u = s2.countFree) ∧ grLoad cls wd op ar m s =
      .next (loopComplete (autoStep cls) (stores op && ar == m.xr) (s2.reg m.xr == 0)
        (applyToReg op ar src (accumulator (contextOf (grCode cls wd op ar m) s) (autoStep cls) ar m.xr s2).1 u)) := by
  obtain ⟨u, hu, happly⟩ := applyToReg_targetOperand (src := src) (contextOf (grCode cls wd op ar m) s) op (autoStep cls) ar
    m.xr s2
  refine ⟨u, hu, ?_⟩
  rw [← happly, ← storesResult_eq]
  unfold grLoad
  refine execute_of_ok ?_
  rw [he]
  simp only [Res.onAbort, Res.bind_ok, hr]

end

/-- Settles O19: the operation on the accumulator, then LP; the frame is that of both. -/
theorem loadsComplete : Obligations.LoadsComplete := by
  intro cls wd op ar m s s1 s2 a src hcls code c he hr
  obtain ⟨hc, -⟩ := busRead_keeps hr
  obtain ⟨u, hu, hload⟩ := grLoad_of_read he hr
  generalize hv : applyToReg op ar src _ u = v at hload
  generalize hov : (stores op && ar == m.xr) = overwritten at hload
  generalize ht : Machine.loopComplete _ overwritten _ v = t at hload
  refine ⟨t, (exec_load hcls ..).trans hload, ?_⟩
  intro tgt
  have hust : u.st = s.st := (st_of_countFree hu).trans (hc.2.1.trans (effectiveAddress_keeps he).2.1)
  have hsame : SameBut (if stores op then [ar] else []) (affected op) [] s2 v := hv ▸
    ((sameBut_of_countFree hu).mono (by simp) (by simp) (by simp)).trans applyToReg_same
  have hreg (r : Reg) : t.reg r = v.reg r := ht ▸ loopComplete_reg r
  have hkept {r : Reg} (h : stores op = false ∨ r ≠ ar) : t.reg r = s1.reg r := by
    rw [hreg, ← hv, applyToReg_reg_other h, reg_of_countFree hu, hc.reg]
  obtain ⟨hbits, hregs, hctl, hmem⟩ := frame_of_addressed he hc (busRead_quiet hr).memory (ht ▸ hsame.loopComplete)
  refine ⟨fun h => ?_, fun h => ?_, ?_, hbits, fun h => ⟨hkept (h.imp_right Ne.symm), fun ha => ?_⟩,
    fun h => hkept (h.imp_right Ne.symm), hregs, hctl, hmem⟩
  · rw [← hc.reg]; exact congrArg Prod.fst (accumulator_of_ne h)
  · rw [hreg, ← hv, applyToReg_reg_self h]; exact aluResult_result ..
  · refine OpFlags.of_loopBit ?_ (ht ▸ loopComplete_same.2.1)
    rw [← hv, applyToReg_st, hust]
    exact opFlags_aluStatus ..
  · obtain rfl : false = overwritten := by
      rw [← hov]
      rcases h with h | h <;> simp [h]
    rw [← ht, loopComplete_lp ha, hc.reg]; rfl

/-! ## Classes 1, 2 and 3 -/

section
variable {op : GrOp} {wd : Width} {a src tgt : Word} {s : State}

/-- Program memory after an operation on an operand there: the result written, where the operation stores it (R171, R185). -/
def storedResult (op : GrOp) (wd : Width) (a src : Word) (s : State) : State :=
  if stores op then s.putData wd a (aluResult op src (s.fetchData wd a)) else s

theorem putData_same (s : State) (wd : Width) (a v : Word) : SameBut [] 0 (transferBytes wd a) s (s.putData wd a v) := by
  cases wd with
  | word => exact putWord_same s a v
  | byte => exact putByte_same s a _

theorem storedResult_same :
    SameBut [] 0 (if stores op then transferBytes wd a else []) s (storedResult op wd a src s) := by
  unfold storedResult
  split
  · exact putData_same ..
  · exact .refl ..

theorem storedResult_reg (r : Reg) : (storedResult op wd a src s).reg r = s.reg r := by
  unfold storedResult
  split
  · cases wd <;> rfl
  · rfl

theorem storedResult_fetchData (h : stores op = true) :
    (storedResult op wd a src s).fetchData wd a = dataOf wd (aluResult op src (s.fetchData wd a)) := by
  rw [storedResult, if_pos h, State.fetchData_putData_self]

theorem storedResult_st : (storedResult op wd a src s).st = s.st := by
  unfold storedResult
  split
  · cases wd <;> rfl
  · rfl

/-- The transfers of an operation on program memory; MOV, which does not read its target, gives the same indicators with the
operand as with any other value (R174, R185). -/
theorem memoryTransfers_memory (op : GrOp) (src : Word) (h : InMemory s wd a) :
    ∃ tgt, memoryTransfers op wd a src s = .ok tgt (storedResult op wd a src s) ∧
      ∀ u, memoryStatus op wd src tgt u = memoryStatus op wd src (s.fetchData wd a) u := by
  have hread := busRead_memory h
  have hwrite (v : Word) := busWrite_memory (v := v) h
  cases op with
  | mov => exact ⟨0, by rw [memoryTransfers, if_neg (by decide), hwrite]; rfl, fun _ => by cases wd <;> rfl⟩
  | sub | add | and | ior | eor =>
    refine ⟨_, ?_, fun _ => rfl⟩
    rw [memoryTransfers, if_pos (by decide), hread, Res.bind_ok, if_pos (by decide), hwrite]; rfl
  | cmp | tst =>
    refine ⟨_, ?_, fun _ => rfl⟩
    rw [memoryTransfers, if_pos (by decide), hread]; rfl

theorem memoryStatus_reg (r : Reg) : (memoryStatus op wd src tgt s).reg r = s.reg r := by
  unfold memoryStatus
  split
  · rfl
  · split <;> rfl

theorem memoryStatus_fetchData (wd' : Width) : (memoryStatus op wd src tgt s).fetchData wd' a = s.fetchData wd' a := by
  have hmem : (memoryStatus op wd src tgt s).mem = s.mem := by
    unfold memoryStatus
    split
    · rfl
    · split <;> rfl
  simp only [State.fetchData, State.wordAt, State.byteAt, hmem]

theorem memoryStatus_same : SameBut [] (affected op) [] s (memoryStatus op wd src tgt s) := by
  unfold memoryStatus
  split
  · exact setSt_same (aluStatus_same ..)
  · split
    · exact setSt_same (aluStatus_same ..)
    · rw [opIndicators_eq]; exact freeStatus_same ..

/-- The indicators are the operation's, but after a byte operation with a left byte in the register (R173, D6). -/
theorem memoryStatus_flags (h : wd = .word ∨ src.extractLsb' 8 8 = 0) :
    OpFlags op src tgt s.st (memoryStatus op wd src tgt s).st := by
  cases wd with
  | word => exact opFlags_aluStatus ..
  | byte =>
    have hleft : (leftByte src == 0) = true := beq_iff_eq.mpr (h.resolve_left (by decide))
    rw [memoryStatus, if_pos hleft]
    exact opFlags_aluStatus ..

theorem loopComplete_fetchData {auto : AutoStep} {overwritten b : Bool} :
    (loopComplete auto overwritten b s).fetchData wd a = s.fetchData wd a := by
  cases auto <;> cases overwritten <;> rfl

end

section
variable {cls : GrClass} {wd : Width} {op : GrOp} {ar : Reg} {m : MemOp} {s s1 : State} {a : Word}

/-- A store on an operand in program memory completes with the accumulator's operation on it (R173, R185, R188, R189). -/
theorem grStore_of_memory
    (he : effectiveAddress (contextOf (grCode cls wd op ar m) s) (autoStep cls) wd m (startOf (grCode cls wd op ar m) s) =
      .ok a s1)
    (hm : InMemory s1 wd a) :
    let src := (accumulator (contextOf (grCode cls wd op ar m) s) (autoStep cls) ar m.xr s1).1
    ∃ u, (u = s1 ∨ u = s1.countFree) ∧ grStore cls wd op ar m s =
      .next (loopComplete (autoStep cls) false (s1.reg m.xr == 0)
        (memoryStatus op wd src (u.fetchData wd a) (storedResult op wd a src u))) := by
  intro src
  have hu := accumulator_state (contextOf (grCode cls wd op ar m) s) (autoStep cls) ar m.xr s1
  refine ⟨_, hu, ?_⟩
  generalize hacc : (accumulator (contextOf (grCode cls wd op ar m) s) (autoStep cls) ar m.xr s1).2 = u at hu ⊢
  have hmu : InMemory u wd a := by rcases hu with rfl | rfl <;> exact hm
  obtain ⟨tgt, htr, hst⟩ := memoryTransfers_memory op src hmu
  rw [← hst]
  unfold grStore
  refine execute_of_ok (Res.onAbort_eq_ok.mpr ?_)
  rw [he, Res.bind_ok]
  simp only [hacc]
  rw [htr, Res.bind_ok]

end

/-- Settles O20: the result to memory, the indicators, then LP; the frame is that of the three. -/
theorem storesComplete : Obligations.StoresComplete := by
  intro cls wd op ar m s s1 a hcls code c he hm
  obtain ⟨u, hu, hstore⟩ := grStore_of_memory he hm
  generalize hv : memoryStatus op wd _ _ _ = v at hstore
  generalize ht : Machine.loopComplete _ false _ v = t at hstore
  refine ⟨t, (exec_store hcls ..).trans hstore, ?_⟩
  intro src tgt
  have hust : u.st = s.st := (st_of_countFree hu).trans (effectiveAddress_keeps he).2.1
  have htgt : u.fetchData wd a = tgt := by rcases hu with rfl | rfl <;> cases wd <;> rfl
  change memoryStatus op wd src (u.fetchData wd a) (storedResult op wd a src u) = v at hv
  rw [htgt] at hv
  have hsame : SameBut [] (affected op) (if stores op then transferBytes wd a else []) s1 v := hv ▸
    ((sameBut_of_countFree hu).mono (by simp) (by simp) (by simp)).trans
      ((storedResult_same.mono (by simp) (by simp) (by simp)).trans (memoryStatus_same.mono (by simp) (by simp) (by simp)))
  have hreg (r : Reg) : t.reg r = s1.reg r := by
    rw [← ht, loopComplete_reg, ← hv, memoryStatus_reg, storedResult_reg, reg_of_countFree hu]
  obtain ⟨hbits, hregs, hctl, hmem⟩ := frame_of_addressed he (.refl s1) (.inr ⟨rfl, rfl⟩) (ht ▸ hsame.loopComplete)
  refine ⟨fun h => congrArg Prod.fst (accumulator_of_ne h), fun h => ⟨_, aluResult_result op src tgt, ?_⟩, fun h => ?_, hbits,
    fun ha => ?_, hreg _, hreg .r0, hregs, hctl, hmem⟩
  · rw [← ht, loopComplete_fetchData, ← hv, memoryStatus_fetchData, storedResult_fetchData h, htgt]
    cases wd <;> rfl
  · refine OpFlags.of_loopBit ?_ (ht ▸ loopComplete_same.2.1)
    have hflags := memoryStatus_flags (op := op) (tgt := tgt) (s := storedResult op wd a src u) h
    rwa [hv, storedResult_st, hust] at hflags
  · rw [← ht, loopComplete_lp ha]; rfl

end Sys2Proof.Machine

/-! PROOF. Class 4 on a register, and the jumps. -/

namespace Sys2Proof.Machine

/-! ## The start of an instruction -/

/-- Writing the program counter changes nothing else. -/
theorem setPc_same (s : State) (v : Word) : SameBut [] 0 [] s (s.setPc v) :=
  ⟨fun _ h0 _ => State.reg_setPc_ne _ _ _ h0, rfl, fun _ _ => rfl, ⟨⟨rfl, rfl, rfl⟩, rfl, rfl⟩, rfl, rfl⟩

/-- With no status bit allowed to change, the status is the same. -/
theorem SameBut.st_eq {regs : List Reg} {bytes : List Word} {s t : State} (h : SameBut regs 0 bytes s t) : t.st = s.st := by
  obtain ⟨-, hst, -⟩ := h
  have hall : ~~~(0 : Word) = BitVec.allOnes 16 := rfl
  rwa [SameBitsBut, hall, BitVec.and_allOnes, BitVec.and_allOnes] at hst

theorem indexValue_eq (xr : Reg) (s : State) : indexValue xr s = if xr = .r0 then 0 else s.reg xr := by
  split
  · subst xr; rfl
  · exact indexValue_of_ne _ _ ‹_›

/-! ## Class 4 on a register -/

section
variable {code : Code} {op : GrOp} {ar : Reg} {src tgt next : Word} {s u v : State}

/-- The operation on a register, from a state where nothing but the program counter has been written (R170, R171). -/
theorem registerDone_applyToReg (hs : SameBut [] 0 [] s u) (hpc : u.pc = next) :
    RegisterDone op ar src tgt next s (applyToReg op ar src tgt u) := by
  refine ⟨fun h => ?_, ?_, fun h => ?_, ?_⟩
  · rw [applyToReg_reg_self h]; exact aluResult_result ..
  · rw [applyToReg_st, hs.st_eq]; exact opFlags_aluStatus ..
  · rw [State.pc_eq_reg, applyToReg_reg_other (h.imp_right Ne.symm)]; exact hpc
  · exact (hs.mono (by simp) (by simp) (by simp)).trans applyToReg_same

/-- The same with the accumulator as target, which MOV does not read: what it would give serves there too (R174, R193). -/
theorem registerDone_targetOperand (hs : SameBut [] 0 [] s v) (hpc : v.pc = next) (xr : Reg) :
    let target := targetOperand (contextOf code s) op .none ar xr v
    ∃ tgt, ReadsAs code ar s tgt ∧ RegisterDone op ar src tgt next s (applyToReg op ar src target.1 target.2) := by
  intro target
  obtain ⟨u, hu, happly⟩ := applyToReg_targetOperand (src := src) (contextOf code s) op .none ar xr v
  obtain ⟨hregs, -, -, ⟨⟨-, hpar, -⟩, -⟩, -⟩ := id hs
  refine ⟨(dataReg (contextOf code s) ar v).1, readsAs_dataReg hpar fun h0 => hregs ar h0 (List.not_mem_nil), ?_⟩
  rw [happly]
  exact registerDone_applyToReg (hs.trans (sameBut_of_countFree hu)) ((reg_of_countFree hu .r0).trans hpc)

/-- Reading the target operand changes at most the count of free values. -/
theorem targetOperand_state (c : Ctx) (op : GrOp) (auto : AutoStep) (ar xr : Reg) (s : State) :
    (targetOperand c op auto ar xr s).2 = s ∨ (targetOperand c op auto ar xr s).2 = s.countFree := by
  unfold targetOperand
  split
  · exact accumulator_state ..
  · exact .inl rfl

end

section
variable (op : GrOp) (ar xr : Reg) (lit : Word) (k : BitVec 4) (s : State)

theorem exec_accRegInstr : exec (accRegInstr op ar xr) s = accReg op ar xr s := by cases op <;> rfl

theorem exec_accLitInstr : exec (accLitInstr op ar xr lit) s = accLit op ar xr lit s := by cases op <;> rfl

theorem exec_accImmInstr : exec (accImmInstr op ar k) s = accImm op ar k s := by cases op <;> rfl

/-- Register XR operates on the accumulator (R190). -/
theorem accReg_done : ∃ t src tgt, accReg op ar xr s = .next t ∧ ReadsAs (accRegCode op ar xr) xr s src ∧
    ReadsAs (accRegCode op ar xr) ar s tgt ∧ RegisterDone op ar src tgt (s.pc + 2) s t := by
  let code := accRegCode op ar xr
  have hreads := readsAs_dataReg (code := code) (s := s) (u := startOf code s) rfl (startOf_reg code s xr)
  have hv := dataReg_state (contextOf code s) xr (startOf code s)
  obtain ⟨tgt, htgt, hdone⟩ := registerDone_targetOperand (op := op) (ar := ar)
    (src := (dataReg (contextOf code s) xr (startOf code s)).1)
    ((startOf_same code s).trans (sameBut_of_countFree hv)) (reg_of_countFree hv .r0) xr
  refine ⟨_, _, tgt, ?_, hreads, htgt, hdone⟩
  exact execute_of_ok rfl

/-- The literal, plus register XR where XR is not 0, operates on the accumulator (R191). -/
theorem accLit_done : ∃ t tgt, accLit op ar xr lit s = .next t ∧ ReadsAs (accLitCode op ar xr lit) ar s tgt ∧
    RegisterDone op ar (lit + if xr = .r0 then 0 else s.reg xr) tgt (s.pc + 4) s t := by
  let code := accLitCode op ar xr lit
  have hindex : indexValue xr (targetOperand (contextOf code s) op .none ar xr (startOf code s)).2 =
      if xr = .r0 then 0 else s.reg xr := by
    rw [indexValue_eq]
    split
    · rfl
    · rw [reg_of_countFree (targetOperand_state ..), startOf_reg _ _ _ ‹_›]
  obtain ⟨tgt, htgt, hdone⟩ := registerDone_targetOperand (op := op) (ar := ar)
    (src := lit + indexValue xr (targetOperand (contextOf code s) op .none ar xr (startOf code s)).2)
    (startOf_same code s) rfl xr
  rw [← hindex]
  exact ⟨_, tgt, execute_of_ok rfl, htgt, hdone⟩

/-- K with zeros above operates on the accumulator (R192). -/
theorem accImm_done : ∃ t tgt, accImm op ar k s = .next t ∧ ReadsAs (accImmCode op ar k) ar s tgt ∧
    RegisterDone op ar (BitVec.ofNat 16 k.toNat) tgt (s.pc + 2) s t := by
  obtain ⟨tgt, htgt, hdone⟩ := registerDone_targetOperand (code := accImmCode op ar k) (op := op) (ar := ar)
    (src := k.setWidth 16) (startOf_same ..) rfl .r0
  exact ⟨_, tgt, execute_of_ok rfl, htgt, BitVec.ofNat_toNat 16 k ▸ hdone⟩

end

/-- Settles O21: by the form of the source, each an operation on the accumulator. -/
theorem accumulatorFormsComplete : Obligations.AccumulatorFormsComplete := by
  intro op ar xr lit k s
  rw [exec_accRegInstr, exec_accLitInstr, exec_accImmInstr]
  exact ⟨accReg_done op ar xr s, accLit_done op ar xr lit s, accImm_done op ar k s⟩

/-! ## JUMP and JSBR -/

theorem contextOf_jumpCode_next (ar : Reg) (m : MemOp) (s : State) :
    (contextOf (jumpCode ar m) s).next = if m.ext = none then s.pc + 2 else s.pc + 4 := by
  have hsecond : (jumpCode ar m).second = m.ext := rfl
  rw [contextOf, Ctx.next, hsecond]
  cases m.ext <;> rfl

/-- Settles O22: the jump from the state in which the address is developed. -/
theorem jumpsComplete : Obligations.JumpsComplete := by
  intro ar m s s1 a
  refine ⟨fun he => ?_, fun h0 he => ?_⟩
  · have hexec : jumpTo m s = .next (s1.setPc a) := execute_of_ok (by rw [he]; rfl)
    obtain ⟨hbits, hregs, hctl, hmem⟩ := frame_of_addressed he (.refl s1) (.inr ⟨rfl, rfl⟩) (setPc_same s1 a)
    exact ⟨_, hexec, State.pc_setPc .., (effectiveAddress_keeps he).2.1, hregs, hctl, hmem⟩
  · generalize hn : (contextOf (jumpCode ar m) s).next = next
    have hexec : jumpLink ar m s = .next ((s1.setReg ar next).setPc a) := execute_of_ok (by rw [he, ← hn]; rfl)
    have hsame : SameBut [ar] 0 [] s1 ((s1.setReg ar next).setPc a) :=
      (setReg_same s1 ar next).trans ((setPc_same ..).mono (by simp) (by simp) (by simp))
    obtain ⟨hbits, hregs, hctl, hmem⟩ := frame_of_addressed he (.refl s1) (.inr ⟨rfl, rfl⟩) hsame
    refine ⟨_, hexec, State.pc_setPc .., ?_, (effectiveAddress_keeps he).2.1, hregs, hctl, hmem⟩
    rw [State.reg_setPc_ne _ _ _ h0, State.reg_setReg_self, ← hn, contextOf_jumpCode_next]

end Sys2Proof.Machine

/-! PROOF. An indirect read of address development that nothing answers. -/

namespace Sys2Proof.Machine

/-! ## What an abort of address development leaves -/

theorem fixedIndicators_eq {op : FixedOp} {ar : Reg} (h : isPair ar = true ∨ op = .mult ∧ ar ∈ [.r3, .r5, .r7]) :
    fixedIndicators op ar = fixedAffected op ar := by
  cases op with
  | dsta | dsub | dadd | divd | dlod => rfl
  | mult => cases ar <;> simp [isPair, fixedIndicators, fixedAffected, Reg.isOdd] at h ⊢

/-- The address development of an instruction of these words in `s` aborts at the address `b` of a word read and leaves `v`. -/
def AddressAborts (code : Code) (auto : AutoStep) (wd : Width) (m : MemOp) (s : State) (b : Word) (v : State) : Prop :=
  effectiveAddress (contextOf code s) auto wd m (startOf code s) = .abort b .word v

/-- An instruction of these words in `s` takes the abort at `b` from a state that opens, beyond `v`, at most these registers and
status bits (R475). -/
def RaisesAbort (code : Code) (opened : List Reg) (mask b : Word) (s v : State)
    (outcome : Host.Outcome State Fault Refusal) : Prop :=
  ∃ u, outcome = raiseAbort s.pc (some code.first) b .word u ∧ SameBut opened mask [] v u

section
variable {auto : AutoStep} {wd : Width} {m : MemOp} {ar : Reg} {s v : State} {b : Word}

theorem exec_gr_of_abort {cls : GrClass} {op : GrOp}
    (h : AddressAborts (grCode cls wd op ar m) (autoStep cls) wd m s b v) :
    RaisesAbort (grCode cls wd op ar m) (if autoStep cls = .none then [] else [m.xr])
      (affected op ||| loopBit (autoStep cls)) b s v (exec (grInstr cls wd op ar m) s) := by
  refine ⟨abortedOperation op (autoStep cls) m.xr v, ?_, opIndicators_eq op ▸ abortedOperation_same ..⟩
  cases cls with
  | load | loadInc | loadDec =>
    rw [exec_load (by decide)]
    exact execute_of_abort (by rw [h]; rfl)
  | store | storeInc | storeDec =>
    rw [exec_store (by decide)]
    exact execute_of_abort (by rw [h]; rfl)

theorem exec_jump_of_abort (h : AddressAborts (jumpCode .r0 m) .none .word m s b v) :
    RaisesAbort (jumpCode .r0 m) [] 0 b s v (exec (.jump m) s) := by
  have hexec : jumpTo m s = _ := execute_of_abort (by rw [h]; rfl)
  exact ⟨v, hexec, .refl ..⟩

theorem exec_jsbr_of_abort (h : AddressAborts (jumpCode ar m) .none .word m s b v) :
    RaisesAbort (jumpCode ar m) [] 0 b s v (exec (.jsbr ar m) s) := by
  have hexec : jumpLink ar m s = _ := execute_of_abort (by rw [h]; rfl)
  exact ⟨v, hexec, .refl ..⟩

theorem fetchAndClear_of_abort (hk : s.par.model.hasKey = true) (h : AddressAborts (fetchClearCode wd ar m) .none wd m s b v) :
    RaisesAbort (fetchClearCode wd ar m) [ar] 0 b s v (fetchAndClear wd ar m s) := by
  refine ⟨v.freeReg ar, ?_, freeReg_same ..⟩
  rw [fetchAndClear, executeOn_of_implemented hk]
  exact execute_of_abort (by rw [h]; rfl)

/-- A register that `DevelopsAddress` names passes the tests of R431. -/
theorem onAccumulator_of_allowed {op : FixedOp} {ok : Reg → Bool} {body : State → Res Unit} (hn : noAddress m = false)
    (hr : isPair ar = true ∨ op = .mult ∧ ar ∈ [.r3, .r5, .r7]) (hok : ok ar = true) :
    onAccumulator ok ar m body s = body s := by
  have htraps : ¬(ar = .r0 ∨ ar = .r1 ∨ noAddress m = true) := by
    cases ar <;> simp [isPair, hn] at hr ⊢
  rw [onAccumulator, if_neg htraps, if_pos hok]

theorem exec_fixed_of_abort {op : FixedOp} (hs : s.par.model.isScientific = true) (hn : noAddress m = false)
    (hr : isPair ar = true ∨ op = .mult ∧ ar ∈ [.r3, .r5, .r7])
    (h : AddressAborts (fixedCode op ar m) .none .word m s b v) :
    RaisesAbort (fixedCode op ar m) (if op = .dsta then [] else [pairHigh ar, pairLow ar]) (fixedAffected op ar) b s v
      (exec (fixedInstr op ar m) s) := by
  refine ⟨abortedFixed op ar v, ?_, fixedIndicators_eq hr ▸ abortedFixed_same ..⟩
  obtain ⟨ok, body, he, hok⟩ := exec_fixedInstr op ar m s
  rw [he, fixedPoint, executeOn_of_implemented hs]
  refine execute_of_abort ?_
  rw [onAccumulator_of_allowed hn hr (hok hr), h]
  rfl

/-- An instruction whose address development aborts opens at most what `DevelopsAddress` says, and takes the abort. -/
theorem exec_of_addressAbort {i : Instr} {opened : List Reg} {mask : Word}
    (hd : DevelopsAddress s.par.model i auto wd m opened mask) (hn : noAddress m = false)
    (h : AddressAborts (code i) auto wd m s b v) : RaisesAbort (code i) opened mask b s v (exec i s) := by
  rcases hd with ⟨cls, op, ar, rfl, rfl, rfl, rfl⟩ | ⟨rfl, ⟨rfl | ⟨ar, rfl⟩, rfl, rfl, rfl⟩ |
    ⟨ar, hk, ⟨rfl, rfl⟩ | ⟨rfl, rfl⟩, rfl, rfl⟩ | ⟨op, ar, hs, hr, rfl, rfl, rfl, rfl⟩⟩
  · rw [(Format.gr cls wd op ar m).code_eq] at h ⊢
    exact exec_gr_of_abort h
  · exact exec_jump_of_abort h
  · exact exec_jsbr_of_abort h
  · exact fetchAndClear_of_abort ((Model.hasKey_iff _).mpr hk) h
  · exact fetchAndClear_of_abort ((Model.hasKey_iff _).mpr hk) h
  · rw [(Format.fixed op ar m).code_eq] at h ⊢
    exact exec_fixed_of_abort hs hn hr h

end

/-- Only classes 1 and 5 step a register before the reads, and there it is one of those that an abort opens. -/
theorem DevelopsAddress.stepped_opened {mdl : Model} {i : Instr} {auto : AutoStep} {wd : Width} {m : MemOp}
    {opened : List Reg} {mask : Word} (h : DevelopsAddress mdl i auto wd m opened mask) :
    (if auto = .dec then [m.xr] else []) ⊆ opened := by
  rcases h with ⟨cls, op, ar, -, rfl, rfl, -⟩ | ⟨rfl, -⟩
  · cases autoStep cls <;> simp
  · exact List.nil_subset _

/-- Settles O60: the reads abort at read number k, and the instruction takes the abort from there. -/
theorem absentPointerAborts : Obligations.AbsentPointerAborts := by
  intro i auto wd m opened mask s k hn hi hd hk hbyte d0 hchain hnone hb
  obtain ⟨hmem, hpar, hkey, hstart, he⟩ := effectiveAddress_indirect (code := code i) (auto := auto) (wd := wd) hn hi
  generalize hv : (if auto = .dec then stepped (contextOf (code i) s) .dec wd m (startOf (code i) s) else
    startOf (code i) s) = v at hmem hpar hkey hstart he
  have hsite (a : Word) : v.site a = s.site a := by rw [State.site, hpar, hkey]; rfl
  have hread : resolveIndirect wd true d0 v = .abort (busAddress .word (readAddress s d0 k)) .word v := by
    rw [← readAddress_of_mem hmem]
    refine resolveIndirect_absent hk hbyte (fun j hj => ?_) ?_
    · obtain ⟨hin, hbit⟩ := hchain j hj
      rw [readAddress_of_mem hmem, pointer_of_mem hmem]
      exact ⟨hin.of_site hsite, hbit⟩
    · rw [readAddress_of_mem hmem, hsite]; exact hnone
  have habort : AddressAborts (code i) auto wd m s (busAddress .word (readAddress s d0 k)) v := by
    rw [AddressAborts, he, hread]; rfl
  obtain ⟨u, hexec, hopen⟩ := exec_of_addressAbort hd hn habort
  obtain ⟨-, -, -, ⟨⟨-, hpar', -⟩, hkey', -⟩, -⟩ := id hopen
  obtain ⟨info, ret, t, ht, hret, hdone, hinfo, -⟩ := raiseAbort_done (w := (code i).first)
    (a := busAddress .word (readAddress s d0 k)) (wd := .word) (hpar'.trans hpar)
    (hb.of_same (hpar'.trans hpar) (hkey'.trans hkey))
  exact ⟨info, ret, u, t, hexec.trans ht, hret, hdone, hinfo.trans (busAddress_and ..),
    (hstart.mono hd.stepped_opened (by simp) (by simp)).trans hopen⟩

end Sys2Proof.Machine

/-! PROOF. The branch instructions: where the program counter goes, and the reserved conditions. -/

namespace Sys2Proof.Machine

/-! ## Branches -/

/-- Of two writes of the program counter the second counts: the branch's own over the advance to NEXT (R26). -/
@[simp] theorem State.setPc_setPc (s : State) (v w : Word) : (s.setPc v).setPc w = s.setPc w := rfl

/-- D, sign extended and doubled, as the number 2 D (R221). -/
theorem displacement_eq (d : BitVec 8) : displacement d = BitVec.ofInt 16 (2 * d.toInt) :=
  (BitVec.ofInt_mul 2 d.toInt).symm

/-- The target is counted from the branch's own address P (R221). -/
theorem branchTarget_contextOf (code : Code) (s : State) (d : BitVec 8) :
    branchTarget (contextOf code s) d = s.pc + BitVec.ofInt 16 (2 * d.toInt) := by
  rw [branchTarget, displacement_eq]; rfl

/-- A branch has one word. -/
theorem startOf_branchCode (sense : Bool) (t : BitVec 4) (d : BitVec 8) (s : State) :
    startOf (branchCode sense t d) s = s.setPc (s.pc + 2) := rfl

section
variable (sense : Bool) (cond : Cond) (d : BitVec 8) (s : State)

theorem exec_branchInstr : exec (branchInstr sense cond d) s = branchOn sense cond d s := by
  cases sense <;> cases cond <;> rfl

/-- The class of a conditional branch is its sense (R223). -/
theorem fieldC_branchInstr : fieldC (code (branchInstr sense cond d)).first = if sense then 9 else 8 := by
  rw [(Format.branch sense cond d).code_eq, branchCode, fieldC_byteWord]

theorem noOperation_eq : noOperation d s = .next (s.setPc (s.pc + 2)) := execute_of_ok rfl

theorem branchAlways_eq : branchAlways d s = .next (s.setPc (s.pc + BitVec.ofInt 16 (2 * d.toInt))) :=
  execute_of_ok (by rw [branchTarget_contextOf, startOf_branchCode, State.setPc_setPc])

/-- The condition is that of the status before, which the advance of the program counter keeps (R222). -/
theorem branchOn_eq : branchOn sense cond d s = .next (s.setPc
    (if condHolds s.st cond = sense then s.pc + BitVec.ofInt 16 (2 * d.toInt) else s.pc + 2)) := by
  refine execute_of_ok ?_
  rw [branchTarget_contextOf, startOf_st]
  by_cases h : condHolds s.st cond = sense
  · rw [if_pos h, if_pos (beq_iff_eq.mpr h), startOf_branchCode, State.setPc_setPc]
  · rw [if_neg h, if_neg (mt beq_iff_eq.mp h), startOf_branchCode]

end

/-- Settles O24: the conditional branches by their sense, class 8 taken where the condition is false. -/
theorem branchesComplete : Obligations.BranchesComplete := by
  intro cond d s target
  have hfalse : branchOn false cond d s = .next (s.setPc (if condHolds s.st cond then s.pc + 2 else target)) := by
    rw [branchOn_eq]
    cases condHolds s.st cond <;> rfl
  exact ⟨fieldC_branchInstr true cond d, fieldC_branchInstr false cond d,
    (exec_branchInstr true cond d s).trans (branchOn_eq true cond d s),
    (exec_branchInstr false cond d s).trans hfalse, branchAlways_eq d s, noOperation_eq d s⟩

/-! ## The reserved conditions -/

/-- Settles O6: T = D, E, F of classes 8 and 9 is the alternative of R121 that speaks of the branches, so O5 gives the trap. -/
theorem reservedBranchesTrap : Obligations.ReservedBranchesTrap := fun w w2 s hc ht hb =>
  have htraps : SourceTraps s.par.model w := .inr (.inr (.inr (.inl ⟨hc, ht⟩)))
  (reservedEncodingsTrap w w2 s).1 (.inl htraps) hb

end Sys2Proof.Machine

/-! PROOF. The single shifts: the closed forms kept step by step, and what the instructions leave. -/

namespace Sys2Proof.Machine

/-! ## Rotations and the signed product -/

theorem rotateLeft_succ {w n : Nat} (x : BitVec w) (h : n + 1 < w) : x.rotateLeft (n + 1) = (x.rotateLeft n).rotateLeft 1 := by
  refine BitVec.eq_of_getLsbD_eq fun i hi => ?_
  simp only [BitVec.getLsbD_rotateLeft_of_le h, BitVec.getLsbD_rotateLeft_of_le (Nat.lt_of_succ_lt h),
    BitVec.getLsbD_rotateLeft_of_le (show 1 < w by omega), Bool.cond_decide, hi, decide_true, Bool.true_and]
  split_ifs <;> grind

theorem rotateRight_succ {w n : Nat} (x : BitVec w) (h : n + 1 < w) :
    x.rotateRight (n + 1) = (x.rotateRight n).rotateRight 1 := by
  refine BitVec.eq_of_getLsbD_eq fun i hi => ?_
  simp only [BitVec.getLsbD_rotateRight, Nat.mod_eq_of_lt h, Nat.mod_eq_of_lt (Nat.lt_of_succ_lt h),
    Nat.mod_eq_of_lt (show 1 < w by omega), Bool.cond_decide, hi, decide_true, Bool.true_and]
  grind

theorem rotateLeft_zero {w : Nat} (x : BitVec w) : x.rotateLeft 0 = x := by
  rw [BitVec.rotateLeft_def, Nat.zero_mod, Nat.sub_zero, BitVec.shiftLeft_zero,
    BitVec.ushiftRight_eq_zero le_rfl, BitVec.or_zero]

theorem rotateRight_zero {w : Nat} (x : BitVec w) : x.rotateRight 0 = x := by
  rw [BitVec.rotateRight_def, Nat.zero_mod, Nat.sub_zero, BitVec.ushiftRight_zero,
    BitVec.shiftLeft_eq_zero le_rfl, BitVec.or_zero]

/-- Doubling leaves the range where the number already has, or where its word's two top bits differ. -/
theorem outOfRange_double (p : Int) : outOfRange 16 (p * 2) =
    (outOfRange 16 p || ((BitVec.ofInt 16 p).getLsbD 14 != (BitVec.ofInt 16 p).getLsbD 15)) := by
  have hlt := (BitVec.ofInt 16 p).isLt
  have hnat : ((BitVec.ofInt 16 p).toNat : Int) = p % 65536 := by rw [BitVec.toNat_ofInt]; omega
  rw [getLsbD_eq_decide, getLsbD_eq_decide, Bool.eq_iff_iff]
  simp only [outOfRange, Bool.or_eq_true, decide_eq_true_eq, bne_iff_ne, ne_eq, decide_eq_decide]
  omega

/-- The signed product's low 16 bits are the word shifted. -/
theorem ofInt_product (a : Word) (n : Nat) : BitVec.ofInt 16 (a.toInt * 2 ^ n) = a <<< n := by
  rw [BitVec.ofInt_mul, BitVec.ofInt_toInt, BitVec.shiftLeft_eq_mul_twoPow]
  congr 1
  refine BitVec.eq_of_toNat_eq ?_
  rw [BitVec.toNat_ofInt, BitVec.toNat_twoPow]
  norm_cast

/-- One more step to the left overflows where the bits that it brings apart differ (R245, R246). -/
theorem outOfRange_succ {a v : Word} {n : Nat} (h14 : v.getLsbD 14 = (a <<< n).getLsbD 14)
    (h15 : v.getLsbD 15 = (a <<< n).getLsbD 15) : outOfRange 16 (a.toInt * 2 ^ (n + 1)) =
      (outOfRange 16 (a.toInt * 2 ^ n) || (v.getLsbD 14 != v.getLsbD 15)) := by
  rw [pow_succ, ← mul_assoc, outOfRange_double, ofInt_product, h14, h15]

/-! ## The linked shifts as rotations of 17 bits -/

/-- CY in front of the register (R246, R250). -/
def linked (x : Shifting) : BitVec 17 := BitVec.ofBool x.cy ++ x.a

theorem linked_getLsbD_16 (x : Shifting) : (linked x).getLsbD 16 = x.cy := by
  rw [linked, BitVec.getLsbD_append, if_neg (by decide), BitVec.getLsbD_ofBool]; rfl

theorem linked_low (x : Shifting) : (linked x).extractLsb' 0 16 = x.a := by
  unfold linked; grind

/-- A linked step turns the 17 bits by one place. -/
theorem linked_step_lll (x : Shifting) : linked (shiftStep .lll x) = (linked x).rotateLeft 1 := by
  refine BitVec.eq_of_getLsbD_eq fun i hi => ?_
  simp only [linked, shiftStep, BitVec.getLsbD_rotateLeft_of_le (show 1 < 17 by decide), BitVec.getLsbD_append]
  grind

theorem linked_step_rll (x : Shifting) : linked (shiftStep .rll x) = (linked x).rotateRight 1 := by
  refine BitVec.eq_of_getLsbD_eq fun i hi => ?_
  simp only [linked, shiftStep, BitVec.getLsbD_rotateRight, BitVec.getLsbD_append]
  grind

theorem linked_getLsbD_low {x : Shifting} {j : Nat} (hj : j < 16) : (linked x).getLsbD j = x.a.getLsbD j := by
  rw [linked, BitVec.getLsbD_append, if_pos hj]

/-- The register and CY are those of a linked word. -/
theorem linked_eq_iff (x : Shifting) (z : BitVec 17) : linked x = z ↔ x.a = z.extractLsb' 0 16 ∧ x.cy = z.getLsbD 16 := by
  refine ⟨fun h => ⟨h ▸ (linked_low x).symm, h ▸ (linked_getLsbD_16 x).symm⟩, fun ⟨ha, hcy⟩ => ?_⟩
  rw [linked, ha, hcy]
  grind

/-- Below the carried bit and above the ones that came round, a linked shift to the left is the open one. -/
theorem linked_rotateLeft_getLsbD (x : Shifting) {n j : Nat} (hn : n ≤ j) (hj : j < 16) :
    ((linked x).rotateLeft n).getLsbD j = (x.a <<< n).getLsbD j := by
  rw [BitVec.getLsbD_rotateLeft_of_le (by omega), BitVec.getLsbD_shiftLeft, linked, BitVec.getLsbD_append]
  grind

/-! ## The steps against the closed forms -/

/-- `y` is `x` after n one-bit steps, in closed form; the steps of SRAO keep CY, which is reset at the end (R249). -/
def Shifted (op : ShiftOp) (x : Shifting) (n : Nat) (y : Shifting) : Prop :=
  y.a = shiftedValue op n x.cy x.a ∧ (op ≠ .rao → y.cy = shiftedCarry op n x.cy x.a) ∧
    y.ov = shiftedOverflow op n x.ov x.a

/-- For the linked shifts the register and CY have their closed forms where the 17 bits are rotated. -/
theorem shifted_lll_iff {x y : Shifting} {n : Nat} : Shifted .lll x n y ↔
    linked y = (linked x).rotateLeft n ∧ y.ov = shiftedOverflow .lll n x.ov x.a := by
  rw [linked_eq_iff, and_assoc]
  exact and_congr_right' (and_congr_left' (forall_prop_of_true (by decide)))

theorem shifted_rll_iff {x y : Shifting} {n : Nat} : Shifted .rll x n y ↔
    linked y = (linked x).rotateRight n ∧ y.ov = x.ov := by
  rw [linked_eq_iff, and_assoc]
  exact and_congr_right' (and_congr_left' (forall_prop_of_true (by decide)))

theorem shiftedOverflow_zero (op : ShiftOp) (ov : Bool) (a : Word) : shiftedOverflow op 0 ov a = ov := by
  have hrange : outOfRange 16 (a.toInt * 2 ^ 0) = false := by
    have := a.isLt
    have := word_toInt a
    simp only [outOfRange, Bool.or_eq_false_iff, decide_eq_false_iff_not]
    omega
  cases op with
  | lao | lll => rw [shiftedOverflow, hrange, Bool.or_false]
  | llo | llc | rao | rll | rlo | rlc => rfl

theorem shifted_zero (op : ShiftOp) (x : Shifting) : Shifted op x 0 x := by
  have hov := (shiftedOverflow_zero op x.ov x.a).symm
  cases op with
  | lll => exact shifted_lll_iff.mpr ⟨(rotateLeft_zero _).symm, hov⟩
  | rll => exact shifted_rll_iff.mpr ⟨(rotateRight_zero _).symm, rfl⟩
  | lao | llo => exact ⟨(BitVec.shiftLeft_zero _).symm, fun _ => rfl, hov⟩
  | llc => exact ⟨(rotateLeft_zero _).symm, fun _ => rfl, rfl⟩
  | rao => exact ⟨BitVec.sshiftRight_zero.symm, fun h => absurd rfl h, rfl⟩
  | rlo => exact ⟨(BitVec.ushiftRight_zero _).symm, fun _ => rfl, rfl⟩
  | rlc => exact ⟨(rotateRight_zero _).symm, fun _ => rfl, rfl⟩

/-- The overflow of SLAO and SLLL, whose steps compare the bits of the open shift to the left (R245, R246). -/
theorem overflow_step {x y : Shifting} {n : Nat} (hov : y.ov = (x.ov || outOfRange 16 (x.a.toInt * 2 ^ n)))
    (hbit : ∀ j, n ≤ j → j < 16 → y.a.getLsbD j = (x.a <<< n).getLsbD j) (hn : n + 1 < 16) :
    (y.ov || y.a.getLsbD 14 != y.a.getLsbD 15) = (x.ov || outOfRange 16 (x.a.toInt * 2 ^ (n + 1))) := by
  rw [outOfRange_succ (hbit 14 (by omega) (by omega)) (hbit 15 (by omega) (by omega)), hov, Bool.or_assoc]

theorem shifted_step {op : ShiftOp} {x y : Shifting} {n : Nat} (hn : n + 1 < 16) (h : Shifted op x n y) :
    Shifted op x (n + 1) (shiftStep op y) := by
  obtain ⟨ha, hcy, hov⟩ := id h
  cases op with
  | lao =>
    replace ha : y.a = x.a <<< n := ha
    refine ⟨?_, fun _ => ?_, overflow_step hov (fun _ _ _ => by rw [ha]) hn⟩
    · simp only [shiftStep, shiftedValue, ha, BitVec.shiftLeft_add]
    · simp only [shiftStep, shiftedCarry, ha, BitVec.getLsbD_shiftLeft]
      grind
  | lll =>
    obtain ⟨hlink, -⟩ := shifted_lll_iff.mp h
    refine shifted_lll_iff.mpr ⟨?_, overflow_step hov (fun j hj hlt => ?_) hn⟩
    · rw [linked_step_lll, hlink, rotateLeft_succ (linked x) (show n + 1 < 17 by omega)]
    · rw [← linked_rotateLeft_getLsbD x hj hlt, ← hlink, linked_getLsbD_low hlt]
  | rll =>
    obtain ⟨hlink, -⟩ := shifted_rll_iff.mp h
    refine shifted_rll_iff.mpr ⟨?_, hov⟩
    rw [linked_step_rll, hlink, rotateRight_succ (linked x) (show n + 1 < 17 by omega)]
  | llo => exact ⟨by simp only [shiftStep, shiftedValue, ha, BitVec.shiftLeft_add], hcy, hov⟩
  | llc => exact ⟨by simp only [shiftStep, shiftedValue, ha, rotateLeft_succ _ hn], hcy, hov⟩
  | rao => exact ⟨by simp only [shiftStep, shiftedValue, ha, BitVec.sshiftRight_add], fun h => absurd rfl h, hov⟩
  | rlo => exact ⟨by simp only [shiftStep, shiftedValue, ha, BitVec.shiftRight_add], hcy, hov⟩
  | rlc => exact ⟨by simp only [shiftStep, shiftedValue, ha, rotateRight_succ _ hn], hcy, hov⟩

theorem shiftTimes_succ (op : ShiftOp) (n : Nat) : ∀ x, shiftTimes op (n + 1) x = shiftStep op (shiftTimes op n x) := by
  induction n with
  | zero => exact fun _ => rfl
  | succ n ih => exact fun x => ih (shiftStep op x)

/-- Fewer than 16 one-bit steps have the closed form (R243). -/
theorem shifted_shiftTimes (op : ShiftOp) (x : Shifting) {n : Nat} (hn : n < 16) : Shifted op x n (shiftTimes op n x) := by
  induction n with
  | zero => exact shifted_zero op x
  | succ n ih => exact shiftTimes_succ op n x ▸ shifted_step hn (ih (Nat.lt_of_succ_lt hn))

/-! ## The status after a shift -/

theorem nzoOf_shiftStatus (op : ShiftOp) (x : Shifting) (st : Word) : NzoOf x.a (shiftStatus op x st) := nzoOf_setNZO ..

/-- CY as the steps left it, but reset by SRAO (R244, R249). -/
theorem flag_cy_shiftStatus (op : ShiftOp) (x : Shifting) (st : Word) :
    flag (shiftStatus op x st) .cy = if op = .rao then false else x.cy := by
  refine ((setNZO_same ..).flag_eq (by decide)).trans ?_
  rw [(putFlag_same ..).flag_eq (by decide), flag_putFlag_self]
  cases op <;> rfl

theorem flag_ov_shiftStatus (op : ShiftOp) (x : Shifting) (st : Word) : flag (shiftStatus op x st) .ov = x.ov :=
  ((setNZO_same ..).flag_eq (by decide)).trans (flag_putFlag_self ..)

/-- A shift writes NG, ZE, OD, CY and OV only. -/
theorem shiftStatus_sameBits (op : ShiftOp) (x : Shifting) (st : Word) : SameBitsBut 0x070C st (shiftStatus op x st) :=
  (((putFlag_same ..).mono (by decide)).trans ((putFlag_same ..).mono (by decide))).trans
    ((setNZO_same ..).mono (by decide))

/-- With the reset of SRAO the carry too has its closed form. -/
theorem Shifted.carry {op : ShiftOp} {x y : Shifting} {n : Nat} (h : Shifted op x n y) (st : Word) :
    flag (shiftStatus op y st) .cy = shiftedCarry op n x.cy x.a := by
  obtain ⟨-, hcy, -⟩ := h
  rw [flag_cy_shiftStatus]
  split
  · subst op; rfl
  · exact hcy ‹_›

/-! ## What a shift leaves -/

section
variable (op : ShiftOp) (ar xr : Reg) (k : BitVec 4) (s : State)

theorem exec_shiftKInstr : exec (shiftKInstr op ar k) s = shiftK op ar k s := by cases op <;> rfl

theorem exec_shiftXInstr : exec (shiftXInstr false op ar xr) s = shiftX op ar xr s := by cases op <;> rfl

/-- The count is the low four bits of the register read as data (R241). -/
theorem shiftX_next :
    let code := shiftXCode false op ar xr
    let read := dataReg (contextOf code s) xr (startOf code s)
    shiftX op ar xr s = .next (shiftBy (contextOf code s) op ar (read.1.toNat % 16) read.2) := by
  intro code read
  have hcount : (read.1.extractLsb' 0 4).toNat = read.1.toNat % 16 := by
    rw [extract_toNat, pow_zero, Nat.div_one]; rfl
  rw [← hcount]
  exact execute_of_ok rfl

end

section
variable {code : Code} {op : ShiftOp} {ar : Reg} {n : Nat} {s u : State}

/-- The status and the register written after the steps, where nothing but the program counter has been written (R243). -/
theorem shiftDone_of_shifted {a : Word} {x : Shifting} (hs : SameBut [] 0 [] s u) (hpc : u.pc = s.pc + 2)
    (hread : ReadsAs code ar s a) (hx : Shifted op ⟨a, flag u.st .cy, flag u.st .ov⟩ n x) :
    ShiftDone code op ar n s ((u.setSt (shiftStatus op x u.st)).setReg ar x.a) := by
  have hframe : SameBut [ar] 0x070C [] u ((u.setSt (shiftStatus op x u.st)).setReg ar x.a) :=
    ((setSt_same (shiftStatus_sameBits ..)).mono (by simp) (by decide) (by simp)).trans
      ((setReg_same ..).mono (by simp) (by decide) (by simp))
  obtain ⟨hval, -, hov⟩ := id hx
  rw [ShiftDone, State.reg_setReg_self, State.setReg_st, State.setSt_st, ← hs.st_eq]
  exact ⟨⟨a, hread, hval, hx.carry u.st, (flag_ov_shiftStatus ..).trans hov⟩, nzoOf_shiftStatus ..,
    fun h0 => (State.pc_setReg_ne _ _ _ h0).trans hpc, (hs.mono (by simp) (by decide) (by simp)).trans hframe⟩

/-- A shift by fewer than 16 from a state where nothing but the program counter has been written (R243). -/
theorem shiftBy_done (hs : SameBut [] 0 [] s u) (hpc : u.pc = s.pc + 2) (hn : n < 16) :
    ShiftDone code op ar n s (shiftBy (contextOf code s) op ar n u) := by
  obtain ⟨hregs, -, -, ⟨⟨-, hpar, -⟩, -⟩, -⟩ := id hs
  have hv := dataReg_state (contextOf code s) ar u
  exact shiftDone_of_shifted (hs.trans (sameBut_of_countFree hv)) ((reg_of_countFree hv .r0).trans hpc)
    (readsAs_dataReg hpar fun h0 => hregs ar h0 List.not_mem_nil) (shifted_shiftTimes op _ hn)

end

/-- Settles O26: the closed forms of the steps, with the count from K or from the register. -/
theorem singleShiftsComplete : Obligations.SingleShiftsComplete := by
  intro op ar xr k s
  rw [exec_shiftKInstr, exec_shiftXInstr]
  refine ⟨⟨_, execute_of_ok rfl, shiftBy_done (startOf_same ..) rfl k.isLt⟩, ?_⟩
  generalize hcode : shiftXCode false op ar xr = code
  have hv := dataReg_state (contextOf code s) xr (startOf code s)
  have hpc : (startOf code s).pc = s.pc + 2 := hcode ▸ rfl
  refine ⟨_, _, hcode ▸ shiftX_next op ar xr s, readsAs_dataReg (startOf_par code s) (startOf_reg code s xr), ?_⟩
  exact shiftBy_done ((startOf_same ..).trans (sameBut_of_countFree hv)) ((reg_of_countFree hv .r0).trans hpc)
    (Nat.mod_lt _ (by decide))

end Sys2Proof.Machine

/-! PROOF. HALT and its end, the status bits and the interrupt masks, and the waits. -/

namespace Sys2Proof.Machine

/-! ## HALT and RUN -/

/-- Of the input events only RUN changes the run state, and only that of a halted processor (R271, R485). -/
theorem applyInput_run (s : State) (i : Input) :
    (applyInput s i).run = if i = .run ∧ s.run = .halted then .running else s.run := by
  cases i with
  | request r | withdraw r => rfl
  | run => unfold applyInput; cases h : s.run <;> simp [h]
  | busWrite cells =>
    obtain ⟨-, -, -, hrun, -⟩ := depositCells_same cells s
    exact hrun
  | setRegister r v | setStatus v => unfold applyInput State.panelWrite; cases h : s.run <;> simp [h]

theorem foldl_applyInput_run (events : List Input) : ∀ s : State,
    (events.foldl applyInput s).run = if .run ∈ events ∧ s.run = .halted then .running else s.run := by
  induction events with
  | nil => simp
  | cons i events ih =>
    intro s
    rw [List.foldl_cons, ih, applyInput_run]
    by_cases hi : i = .run <;> by_cases hs : s.run = .halted <;> simp [hi, hs, eq_comm]

/-- The events before a step are the first of the input stream. -/
theorem arrive_run (s : State) :
    (arrive s).run = if .run ∈ s.inputs.head?.getD [] ∧ s.run = .halted then .running else s.run := by
  unfold arrive
  cases h : s.inputs with
  | nil => simp
  | cons events rest => exact foldl_applyInput_run events _

theorem step_of_halted {s : State} (hr : (arrive s).run = .halted) : step s = .next (arrive s) := by
  unfold step stepArrived
  rw [hr]

theorem exec_halt (s : State) : exec .halt s = .next ((s.setPc (s.pc + 2)).setRun .halted) :=
  show haltProcessor s = _ from execute_of_ok rfl

/-- Settles O30: a halted processor steps in place, and its run state is that of the events at the head of the inputs. -/
theorem haltAndResume : Obligations.HaltAndResume := by
  refine fun s => ⟨exec_halt s, step_of_halted, fun hr hno => ?_, fun hr ⟨events, he, hrun⟩ => ?_⟩
  · have hmem : .run ∉ s.inputs.head?.getD [] := by
      cases h : s.inputs.head? with
      | none => exact List.not_mem_nil
      | some events => exact hno events h
    rw [arrive_run, if_neg (hmem ·.1), hr]
  · have hmem : .run ∈ s.inputs.head?.getD [] := by rwa [Option.mem_def.mp he]
    rw [arrive_run, if_pos ⟨hmem, hr⟩]

/-! ## The status bits of F and K -/

/-- An instruction of one word that writes status bits of a mask. -/
theorem setPc_setSt_same {mask v : Word} {s : State} (p : Word) (h : SameBitsBut mask s.st v) :
    SameBut [] mask [] s ((s.setPc p).setSt v) :=
  ((setPc_same s p).mono (by simp) (by simp) (by simp)).trans (setSt_same h)

theorem flagBits_getLsbD (f : BitVec 7) (j : Nat) : (f.setWidth 16).getLsbD j = f.getLsbD j := by
  rw [BitVec.getLsbD_setWidth, Bool.and_eq_right_iff_imp]
  exact fun h => decide_eq_true ((BitVec.lt_of_getLsbD h).trans (by decide))

/-- Bit j of K stands at bit 12 + j (R275). -/
theorem maskWord_getLsbD (k : BitVec 4) (j : Nat) : (maskWord k).getLsbD (12 + j) = k.getLsbD j := by
  rw [maskWord, BitVec.getLsbD_append, if_neg (by omega), Nat.add_sub_cancel_left]

theorem getLsbD_and_not (st v : Word) (j : Nat) : (st &&& ~~~v).getLsbD j = (st.getLsbD j && !v.getLsbD j) := by
  rw [BitVec.getLsbD_and, BitVec.getLsbD_not]
  by_cases hj : j < 16
  · rw [decide_eq_true hj, Bool.true_and]
  · rw [BitVec.getLsbD_of_ge st j (Nat.le_of_not_lt hj)]; rfl

section
variable (s : State)

theorem exec_rsts (f : BitVec 7) :
    exec (.rsts f) s = .next ((s.setPc (s.pc + 2)).setSt (s.st &&& ~~~(f.setWidth 16))) :=
  show resetStatus f s = _ from execute_of_ok rfl

theorem exec_sets (f : BitVec 7) :
    exec (.sets f) s = .next ((s.setPc (s.pc + 2)).setSt (s.st ||| f.setWidth 16)) :=
  show setStatusBits f s = _ from execute_of_ok rfl

theorem exec_enbl (k : BitVec 4) :
    exec (.enbl k) s = .next ((s.setPc (s.pc + 2)).setSt (s.st &&& ~~~maskWord k)) :=
  show enableLevels k s = _ from execute_of_ok rfl

theorem exec_dsbl (k : BitVec 4) :
    exec (.dsbl k) s = .next ((s.setPc (s.pc + 2)).setSt (s.st ||| maskWord k)) :=
  show disableLevels k s = _ from execute_of_ok rfl

end

/-- Settles O31: the words by their format, then the status written, bit by bit. -/
theorem statusBitsSetAndReset : Obligations.StatusBitsSetAndReset := by
  intro f s
  refine ⟨by revert f; decide, by revert f; decide, ⟨_, exec_rsts s f, fun j => ?_, rfl, setPc_setSt_same _ ?_⟩,
    ⟨_, exec_sets s f, fun j => ?_, rfl, setPc_setSt_same _ ?_⟩⟩
  · rw [State.setSt_st, getLsbD_and_not, flagBits_getLsbD]
  · exact (and_not_same ..).mono (flagBits_subset f)
  · rw [State.setSt_st, BitVec.getLsbD_or, flagBits_getLsbD]
  · exact (or_same ..).mono (flagBits_subset f)

/-- Settles O32: a masked level is not picked; then the words by their format and the mask bits written. -/
theorem levelsEnabledAndDisabled : Obligations.LevelsEnabledAndDisabled := by
  intro k s
  refine ⟨fun l hmasked hl => ?_, by revert k; decide, by revert k; decide,
    ⟨_, exec_enbl s k, fun j _ => ?_, rfl, setPc_setSt_same _ ?_⟩,
    ⟨_, exec_dsbl s k, fun j _ => ?_, rfl, setPc_setSt_same _ ?_⟩⟩
  · have henabled := levelEnabled_iff.mp (pickLevel_some hl).1
    rw [hmasked] at henabled
    cases henabled
  · rw [State.setSt_st, getLsbD_and_not, maskWord_getLsbD]
  · exact (and_not_same ..).mono (maskWord_subset k)
  · rw [State.setSt_st, BitVec.getLsbD_or, maskWord_getLsbD]
  · exact (or_same ..).mono (maskWord_subset k)

/-! ## The waits -/

/-- What a waiting processor does, by the level picked (R280, R485). -/
theorem waitOutcome_waitStep (u : State) : WaitOutcome u (waitStep u) := by
  refine ⟨fun hl => ?_, fun hl hb => ?_, fun l hmem hl => ?_⟩
  · rw [waitStep, hl]
  · obtain ⟨r, t, hr, hrl, ht, hd⟩ := takeSystem_done (pickLevel_some hl).2 hb
    exact ⟨r, t, hr, hrl, by rw [waitStep, hl]; exact ht, hd⟩
  · rw [waitStep, hl]
    cases l with
    | l1 | l2 | l3 => rfl
    | l4 => exact absurd hmem (by decide)

theorem step_of_waiting {s : State} (hr : (arrive s).run = .waiting) : step s = waitStep (arrive s) := by
  unfold step stepArrived
  rw [hr]

/-- Settles O56: the step of a waiting processor is `waitStep`. -/
theorem waitsEnd : Obligations.WaitsEnd := by
  intro s hr
  rw [step_of_waiting hr]
  exact waitOutcome_waitStep _

/-- A wait instruction waits or traps by the mask bits that it leaves (R280). -/
theorem waitOrTrap_waitForInterrupt (code : Code) (update : Word → Word) (s : State) :
    WaitOrTrap code.first (update s.st) s (waitForInterrupt code update s) := by
  unfold waitForInterrupt
  refine ⟨fun hmask => ?_, fun hmask hb => ?_⟩
  · rw [if_neg hmask]
    exact waitOutcome_waitStep _
  · rw [if_pos hmask, execute_of_trap rfl]
    have hb' : BlockInMemory ((startOf code s).setSt (update s.st)) .unimplemented := hb
    obtain ⟨t, ht, hd⟩ := takeLevel_done (info := code.first) (ret := s.pc) hb'
    exact ⟨t, ht, hd.of_same (startOf_reg code s) rfl rfl rfl rfl rfl rfl rfl rfl⟩

/-- A status is its bits 11 to 0 and its four mask bits (R41). -/
theorem eq_of_maskBits {st v v' : Word} (h : SameBitsBut 0xF000 st v) (h' : SameBitsBut 0xF000 st v')
    (hbits : ∀ j < 4, v.getLsbD (12 + j) = v'.getLsbD (12 + j)) : v = v' := by
  refine BitVec.eq_of_getLsbD_eq fun i hi => ?_
  by_cases hlow : i < 12
  · have hm : (0xF000 : Word).getLsbD i = false := by
      revert i; decide
    rw [sameBitsBut_iff.mp h i hi hm, sameBitsBut_iff.mp h' i hi hm]
  · obtain ⟨j, rfl⟩ := Nat.exists_eq_add_of_le (Nat.le_of_not_lt hlow)
    exact hbits j (by omega)

theorem interruptCode_enbw (k : BitVec 4) : (interruptCode 4 k).first = 0x0840 + BitVec.ofNat 16 k.toNat := by
  revert k; decide

theorem interruptCode_dsbw (k : BitVec 4) : (interruptCode 12 k).first = 0x08C0 + BitVec.ofNat 16 k.toNat := by
  revert k; decide

/-- Settles O33: each is `waitForInterrupt` with its word and the status that its mask bits make. -/
theorem waitFamilyCompletes : Obligations.WaitFamilyCompletes := by
  intro k s st' hst
  refine ⟨fun _ hbits => ?_, fun _ hbits => ?_, waitOrTrap_waitForInterrupt (interruptCode 4 0) (fun st => st) s,
    waitOrTrap_waitForInterrupt (interruptCode 12 0) (fun st => st) s⟩
  · obtain rfl : s.st &&& ~~~maskWord k = st' :=
      eq_of_maskBits ((and_not_same ..).mono (maskWord_subset k)) hst fun j hj => by
        rw [hbits j hj, getLsbD_and_not, maskWord_getLsbD]
    rw [← interruptCode_enbw]
    exact waitOrTrap_waitForInterrupt (interruptCode 4 k) (fun st => st &&& ~~~maskWord k) s
  · obtain rfl : s.st ||| maskWord k = st' :=
      eq_of_maskBits ((or_same ..).mono (maskWord_subset k)) hst fun j hj => by
        rw [hbits j hj, BitVec.getLsbD_or, maskWord_getLsbD]
    rw [← interruptCode_dsbw]
    exact waitOrTrap_waitForInterrupt (interruptCode 12 k) (fun st => st ||| maskWord k) s

end Sys2Proof.Machine

/-! PROOF. The control instructions with a D field or an address: the block transfers of registers, fetch and clear, and the
key stores. -/

namespace Sys2Proof.Machine

/-! ## The D field -/

/-- D as a number of words, in bytes (R106). -/
theorem directAddress_absolute (c : Ctx) (d : BitVec 8) : directAddress c .absolute d = BitVec.ofNat 16 (2 * d.toNat) := by
  show 2 * d.setWidth 16 = _
  revert d; decide

/-- Settles O34: word D of memory, or D words from P. -/
theorem directFieldAddresses : Obligations.DirectFieldAddresses := by
  refine fun code d s => ⟨directAddress_absolute _ d, ?_⟩
  rw [directAddress, displacement_eq]; rfl

/-! ## Transfers one after another -/

/-- Actions that each complete where the present state allows it complete one after another. -/
theorem eachOf_eq_ok {α : Type} {f : α → State → Res Unit} {g : State → α → State} {P : α → State → Prop} {xs : List α}
    (hok : ∀ a s, P a s → f a s = .ok () (g s a)) (hkeep : ∀ a b s, P b s → P b (g s a)) :
    ∀ {s : State}, (∀ a ∈ xs, P a s) → eachOf f xs s = .ok () (xs.foldl g s) := by
  induction xs with
  | nil => exact fun _ => rfl
  | cons a xs ih =>
    intro s h
    rw [eachOf, hok a s (h a List.mem_cons_self), Res.bind_ok, ih fun b hb => hkeep a b s (h b (List.mem_cons_of_mem a hb))]
    rfl

/-- Each transfer's target holds afterwards what its source held before, where no transfer changes a source, and none the
target of an earlier one. -/
theorem foldl_transfers {α β : Type} {g : State → α → State} {src tgt : α → State → β} {xs : List α}
    (hset : ∀ a s, tgt a (g s a) = src a s) (hsrc : ∀ a b s, src b (g s a) = src b s)
    (hapart : xs.Pairwise fun a b => ∀ s, tgt a (g s b) = tgt a s) (s : State) :
    ∀ a ∈ xs, tgt a (xs.foldl g s) = src a s := by
  induction xs generalizing s with
  | nil => exact fun _ h => absurd h List.not_mem_nil
  | cons x xs ih =>
    obtain ⟨hx, hxs⟩ := List.pairwise_cons.mp hapart
    intro a ha
    rcases List.mem_cons.mp ha with rfl | ha
    · have hkept : tgt a (xs.foldl g (g s a)) = tgt a (g s a) :=
        List.foldlRecOn (motive := fun t => tgt a t = tgt a (g s a)) _ _ rfl fun t ht b hb => (hx b hb t).trans ht
      exact hkept.trans (hset a s)
    · exact (ih hxs (g s x) a ha).trans (hsrc x a s)

theorem foldl_same {α : Type} {g : State → α → State} {regs : List Reg} {mask : Word} {bytes : List Word} {xs : List α}
    (h : ∀ a ∈ xs, ∀ s, SameBut regs mask bytes s (g s a)) (s : State) : SameBut regs mask bytes s (xs.foldl g s) :=
  List.foldlRecOn (motive := SameBut regs mask bytes s) _ _ (.refl ..) fun t ht a ha => ht.trans (h a ha t)

/-! ## Seven registers and seven words -/

/-- The number of the word that an address is in (R62). -/
theorem wordAddress_div_two (a : Word) : (a &&& 0xFFFE).toNat / 2 = a.toNat / 2 := by
  have ha := a.isLt
  have hmask : a.toNat / 2 &&& 0x7FFF = a.toNat / 2 % 0x8000 := Nat.and_two_pow_sub_one_eq_mod _ 15
  rw [BitVec.toNat_and, Nat.and_div_two]
  exact hmask.trans (Nat.mod_eq_of_lt (by omega))

/-- The seven words are apart, also where their addresses wrap around. -/
theorem sevenWords_apart (a : Word) : (sevenWords a).Pairwise fun x y => x &&& 0xFFFE ≠ y &&& 0xFFFE := by
  have hapart : (sevenWords a).Pairwise fun x y => x.toNat / 2 ≠ y.toNat / 2 := by
    have ha := a.isLt
    simp only [sevenWords, List.pairwise_cons, List.forall_mem_cons, List.not_mem_nil, IsEmpty.forall_iff, implies_true,
      List.Pairwise.nil, and_true, BitVec.toNat_add, BitVec.ofNat_eq_ofNat, BitVec.toNat_ofNat, Nat.reducePow, Nat.reduceMod]
    omega
  exact hapart.imp fun h he => h (by rw [← wordAddress_div_two, he, wordAddress_div_two])

/-- The registers with their words, in the order of the transfers (R283). -/
def registerWords (a : Word) : List (Reg × Word) := registers1to7.zip (sevenWords a)

/-- A register written to its word (R283). -/
def storedRegister (s : State) (p : Reg × Word) : State := s.putWord p.2 (s.reg p.1)

/-- A register loaded from its word (R286). -/
def loadedRegister (s : State) (p : Reg × Word) : State := s.setReg p.1 (s.wordAt p.2)

section
variable {a : Word} {p : Reg × Word}

theorem registerWords_ne (h : p ∈ registerWords a) : p.1 ≠ .r0 := by
  have hmem : p.1 ∈ registers1to7 := (List.of_mem_zip h).1
  rintro he
  rw [he] at hmem
  exact absurd hmem (by decide)

theorem registerWords_words_apart (a : Word) :
    (registerWords a).Pairwise fun p q => p.2 &&& 0xFFFE ≠ q.2 &&& 0xFFFE :=
  List.Pairwise.of_map (l := registerWords a) Prod.snd (fun _ _ => id) (sevenWords_apart a)

theorem registerWords_registers_apart (a : Word) : (registerWords a).Pairwise fun p q => p.1 ≠ q.1 :=
  List.Pairwise.of_map (l := registerWords a) Prod.fst (fun _ _ => id) (show registers1to7.Pairwise (· ≠ ·) by decide)

end

section
variable {ps : List (Reg × Word)} {s : State} (h : ∀ p ∈ ps, InMemory s .word p.2)
include h

theorem eachOf_storedRegister :
    eachOf (fun (p : Reg × Word) s => busWrite .word p.2 (s.reg p.1) s) ps s = .ok () (ps.foldl storedRegister s) :=
  eachOf_eq_ok (g := storedRegister) (P := fun p u => InMemory u .word p.2) (fun _ _ hp => busWrite_memory hp)
    (fun _ _ _ hp => hp.of_site fun _ => rfl) h

theorem eachOf_loadedRegister :
    eachOf (fun (p : Reg × Word) s => (busRead .word p.2 s).bind fun v s => .ok () (s.setReg p.1 v)) ps s =
      .ok () (ps.foldl loadedRegister s) :=
  eachOf_eq_ok (g := loadedRegister) (P := fun p u => InMemory u .word p.2) (fun _ _ hp => by rw [busRead_memory hp]; rfl)
    (fun _ _ _ hp => hp.of_site fun _ => rfl) h

end

section
variable {md : AddrMode} {d : BitVec 8} {s : State} {code : Code}

theorem exec_regm (hcode : directCode .regm md d = code)
    (h : WordsInMemory s (sevenWords (directAddress (contextOf code s) md d))) :
    exec (.regm md d) s =
      .next ((registerWords (directAddress (contextOf code s) md d)).foldl storedRegister (startOf code s)) := by
  subst hcode
  show storeRegisters md d s = _
  exact execute_of_ok (Res.onAbort_eq_ok.mpr (eachOf_storedRegister fun p hp => h p.2 (List.of_mem_zip hp).2))

theorem exec_mreg (hcode : directCode .mreg md d = code)
    (h : WordsInMemory s (sevenWords (directAddress (contextOf code s) md d))) :
    exec (.mreg md d) s =
      .next ((registerWords (directAddress (contextOf code s) md d)).foldl loadedRegister (startOf code s)) := by
  subst hcode
  show loadRegisters md d s = _
  exact execute_of_ok (Res.onAbort_eq_ok.mpr (eachOf_loadedRegister fun p hp => h p.2 (List.of_mem_zip hp).2))

end

/-- What a run of writes of the seven words leaves. -/
theorem storedRegisters_done (a : Word) (s : State) :
    let t := (registerWords a).foldl storedRegister s
    (∀ p ∈ registerWords a, t.wordAt p.2 = s.reg p.1) ∧ t.pc = s.pc ∧
      SameBut [] 0 ((sevenWords a).flatMap bytesOfWord) s t := by
  refine ⟨?_, ?_, foldl_same (fun p hp u => ?_) s⟩
  · refine foldl_transfers (src := fun (p : Reg × Word) u => u.reg p.1) (tgt := fun p u => u.wordAt p.2)
      (fun p u => State.wordAt_putWord_self ..) (fun _ _ _ => rfl) ?_ s
    exact (registerWords_words_apart a).imp fun hne u => State.wordAt_putWord_ne _ _ _ _ hne
  · exact List.foldlRecOn (motive := fun t : State => t.pc = s.pc) _ _ rfl fun _ ht _ _ => ht
  · refine (putWord_same u p.2 _).mono (List.Subset.refl _) (by decide) fun b hb => ?_
    exact List.mem_flatMap.mpr ⟨p.2, (List.of_mem_zip hp).2, hb⟩

/-- What a run of reads of the seven words leaves. -/
theorem loadedRegisters_done (a : Word) (s : State) :
    let t := (registerWords a).foldl loadedRegister s
    (∀ p ∈ registerWords a, t.reg p.1 = s.wordAt p.2) ∧ t.pc = s.pc ∧ SameBut registers1to7 0 [] s t := by
  refine ⟨?_, ?_, foldl_same (fun p hp u => ?_) s⟩
  · refine foldl_transfers (src := fun (p : Reg × Word) u => u.wordAt p.2) (tgt := fun p u => u.reg p.1)
      (fun p u => State.reg_setReg_self ..) (fun _ _ _ => rfl) ?_ s
    exact (registerWords_registers_apart a).imp fun hne u => State.reg_setReg_ne _ _ _ _ hne
  · exact List.foldlRecOn (motive := fun t : State => t.pc = s.pc) _ _ rfl fun u hu p hp =>
      (State.pc_setReg_ne _ _ _ (registerWords_ne hp)).trans hu
  · refine (setReg_same u p.1 _).mono (fun r hr => ?_) (by decide) (List.Subset.refl _)
    exact List.mem_singleton.mp hr ▸ (List.of_mem_zip hp).1

/-- Settles O36: the seven transfers one after another from the start of the instruction. -/
theorem registerBlocksComplete : Obligations.RegisterBlocksComplete := by
  refine fun md d s => ⟨rfl, fun _ => rfl, fun hm => ?_, fun hm => ?_⟩
  · generalize hcode : directCode .regm md d = code at hm ⊢
    have hpc : (startOf code s).pc = s.pc + 2 := hcode ▸ rfl
    obtain ⟨hwords, hpc', hsame⟩ :=
      storedRegisters_done (directAddress (contextOf code s) md d) (startOf code s)
    refine ⟨_, exec_regm hcode hm, fun p hp => ?_, hpc'.trans hpc,
      ((startOf_same code s).mono (by simp) (by simp) (by simp)).trans hsame⟩
    exact (hwords p hp).trans (startOf_reg code s p.1 (registerWords_ne hp))
  · generalize hcode : directCode .mreg md d = code at hm ⊢
    have hpc : (startOf code s).pc = s.pc + 2 := hcode ▸ rfl
    obtain ⟨hregs, hpc', hsame⟩ :=
      loadedRegisters_done (directAddress (contextOf code s) md d) (startOf code s)
    exact ⟨_, exec_mreg hcode hm, hregs, hpc'.trans hpc,
      ((startOf_same code s).mono (by simp) (by simp) (by simp)).trans hsame⟩

/-! ## Fetch and clear -/

section
variable {wd : Width} {ar : Reg} {m : MemOp} {s s1 : State} {a : Word}

/-- Memory cleared at an address and a register written: what FCLW and FCLB do there (R290 to R292). -/
def clearedAt (wd : Width) (ar : Reg) (a v : Word) (s : State) : State := (s.putData wd a 0).setReg ar v

theorem clearedAt_same (v : Word) : SameBut [ar] 0 (transferBytes wd a) s (clearedAt wd ar a v s) :=
  ((putData_same s wd a 0).mono (by simp) (by simp) (by simp)).trans
    ((setReg_same ..).mono (by simp) (by simp) (by simp))

theorem clearedAt_fetchData (v : Word) : (clearedAt wd ar a v s).fetchData wd a = 0 := by
  have hmem : (clearedAt wd ar a v s).fetchData wd a = (s.putData wd a 0).fetchData wd a := by cases wd <;> rfl
  rw [hmem, State.fetchData_putData_self]
  cases wd <;> rfl

theorem clearedAt_pc (v : Word) (h : ar ≠ .r0) : (clearedAt wd ar a v s).pc = s.pc := by
  rw [clearedAt, State.pc_setReg_ne _ _ _ h]
  cases wd <;> rfl

/-- An operand in program memory is cleared, read first on the B series alone (R290 to R292). -/
theorem fetchAndClear_of_memory (hk : s.par.model.hasKey = true)
    (he : effectiveAddress (contextOf (fetchClearCode wd ar m) s) .none wd m (startOf (fetchClearCode wd ar m) s) =
      .ok a s1)
    (hm : InMemory s1 wd a) :
    fetchAndClear wd ar m s =
      .next (clearedAt wd ar a (if s.par.model.isBSeries then s1.fetchData wd a else 0) s1) := by
  obtain ⟨-, -, ⟨⟨-, hpar, -⟩, -⟩, -⟩ := effectiveAddress_keeps he
  have hpar : s1.par = s.par := hpar
  unfold fetchAndClear
  rw [executeOn_of_implemented hk]
  refine execute_of_ok (Res.onAbort_eq_ok.mpr ?_)
  rw [he, Res.bind_ok, hpar]
  cases hb : s.par.model.isBSeries with
  | true =>
    rw [if_pos rfl, if_pos rfl, busRead_memory hm, Res.bind_ok, busWrite_memory hm]; rfl
  | false =>
    rw [if_neg Bool.false_ne_true, if_neg Bool.false_ne_true, busWrite_memory hm]; rfl

end

/-- Settles O39: the trap of the 1110 basic, and the operand cleared on the models that have the rows. -/
theorem fetchAndClearCompletes : Obligations.FetchAndClearCompletes := by
  intro wd ar m s i code
  have hexec : exec i s = fetchAndClear wd ar m s := by cases wd <;> rfl
  rw [hexec]
  refine ⟨fun hmodel hb => ?_, fun s1 a hmodel he hm => ?_⟩
  · exact fetchAndClear_trapped hb (by rw [hmodel]; rfl)
  · obtain ⟨-, hst, -, -, hregs1⟩ := effectiveAddress_keeps he
    have hpc : s1.pc = (contextOf code s).next := hregs1 .r0 (.inl rfl)
    obtain ⟨-, hregs, hctl, hmem⟩ := frame_of_addressed he (.refl s1) (.inr ⟨rfl, rfl⟩)
      (clearedAt_same (ar := ar) (if s.par.model.isBSeries then s1.fetchData wd a else 0))
    refine ⟨_, fetchAndClear_of_memory ((Model.hasKey_iff _).mpr hmodel) he hm, State.reg_setReg_self ..,
      clearedAt_fetchData _, ?_, fun h0 => (clearedAt_pc _ h0).trans hpc, hregs, hctl, hmem⟩
    cases wd <;> exact hst

/-! ## The key stores -/

theorem exec_skey {k : BitVec 2} {s : State} (h : s.par.model.hasKey = true) :
    exec (.skey k) s = .next ((s.setPc (s.pc + 2)).setKey k) := by
  show storeKey k s = _
  rw [storeKey, executeOn_of_implemented h]
  exact execute_of_ok rfl

theorem exec_jkey {k : BitVec 2} {target : Word} {s : State} (h : s.par.model.isScientific = true) :
    exec (.jkey k target) s = .next ((s.setKey k).setPc target) := by
  show jumpKey k target s = _
  rw [jumpKey, executeOn_of_implemented h]
  exact execute_of_ok rfl

/-- Settles O40: on the models that have the rows (R2). -/
theorem keyStoresComplete : Obligations.KeyStoresComplete := fun _ _ _ =>
  ⟨fun h => exec_skey ((Model.hasKey_iff _).mpr h), exec_jkey⟩

end Sys2Proof.Machine

/-! PROOF. The decimal and character instructions: the registers saved, the bytes of a field read and written, and the moves. -/

namespace Sys2Proof.Machine

/-! ## Parts of an instruction that write memory and the status alone -/

/-- All but the status bits of a mask, the memory bytes of a list and the counter of free values is the same, the program
counter too. -/
def WritesOnly (mask : Word) (bytes : List Word) (s t : State) : Prop := t.pc = s.pc ∧ SameBut [] mask bytes s t

section
variable {mask : Word} {bytes bytes' : List Word} {s t u : State}

theorem WritesOnly.refl (mask : Word) (bytes : List Word) (s : State) : WritesOnly mask bytes s s := ⟨rfl, .refl ..⟩

theorem WritesOnly.trans (h : WritesOnly mask bytes s t) (g : WritesOnly mask bytes t u) : WritesOnly mask bytes s u :=
  ⟨g.1.trans h.1, h.2.trans g.2⟩

theorem WritesOnly.mono (h : WritesOnly 0 bytes s t) (hb : bytes ⊆ bytes') : WritesOnly mask bytes' s t :=
  ⟨h.1, h.2.mono (List.Subset.refl _) (by simp) hb⟩

theorem WritesOnly.inMemory {wd : Width} {a : Word} (h : WritesOnly mask bytes s t) (ha : InMemory s wd a) :
    InMemory t wd a := by
  obtain ⟨-, -, -, -, ⟨⟨-, hpar, -⟩, hkey, -⟩, -⟩ := h
  exact ha.of_site fun b => by rw [State.site, hpar, hkey]; rfl

theorem putByte_writesOnly (s : State) (a : Word) (v : Byte) : WritesOnly 0 [a] s (s.putByte a.toNat v) :=
  ⟨rfl, putByte_same ..⟩

theorem countFree_writesOnly (s : State) : WritesOnly 0 [] s s.countFree := ⟨rfl, sameBut_of_countFree (.inr rfl)⟩

/-- Actions that each complete with the write of one byte, where memory answers at the bytes that they use, complete one
after another. -/
theorem eachOf_writesOnly {α : Type} {f : α → State → Res Unit} {g : State → α → State} {xs : List α}
    (used : α → List Word) (target : α → Word) (hok : ∀ a s, BytesInMemory s (used a) → f a s = .ok () (g s a))
    (hg : ∀ a s, WritesOnly 0 [target a] s (g s a)) (h : ∀ a ∈ xs, BytesInMemory s (used a))
    (hb : xs.map target ⊆ bytes) :
    eachOf f xs s = .ok () (xs.foldl g s) ∧ WritesOnly 0 bytes s (xs.foldl g s) := by
  refine ⟨eachOf_eq_ok hok (fun a _ u hu c hc => (hg a u).inMemory (hu c hc)) h,
    List.foldlRecOn (motive := WritesOnly 0 bytes s) _ _ (.refl ..) fun t ht a ha => ht.trans ((hg a t).mono ?_)⟩
  exact List.cons_subset.mpr ⟨hb (List.mem_map_of_mem ha), List.nil_subset _⟩

end

/-! ## The start: the registers saved (R324) -/

/-- The state in which a class C instruction acts on its fields: registers 5, 6, 7 saved, the program counter at NEXT. -/
def decimalStart (s : State) : State := (savedState s).setPc (s.pc + 4)

/-- The saved registers with their words. -/
def savedWords (s : State) : List (Reg × Word) := [Reg.r5, .r6, .r7].zip (storageWords s)

theorem savedState_eq (s : State) : savedState s = (savedWords s).foldl storedRegister s := rfl

theorem decimalStart_same (s : State) : SameBut [] 0 (storageBytes s) s (decimalStart s) := by
  have hsaved : SameBut [] 0 (storageBytes s) s (savedState s) := by
    rw [savedState_eq]
    refine foldl_same (fun p hp u => (putWord_same u p.2 _).mono (List.Subset.refl _) (by simp) fun b hb => ?_) s
    exact List.mem_flatMap.mpr ⟨p.2, (List.of_mem_zip hp).2, hb⟩
  exact hsaved.trans ((setPc_same ..).mono (by simp) (by simp) (by simp))

theorem BytesInMemory.decimalStart {s : State} {as : List Word} (h : BytesInMemory s as) :
    BytesInMemory (decimalStart s) as := fun a ha =>
  (h a ha).of_site fun b => by simp only [Machine.decimalStart, savedState, State.site_setPc, State.site_putWord]

theorem storageWords_apart (s : State) : (storageWords s).Pairwise fun x y => x &&& 0xFFFE ≠ y &&& 0xFFFE := by
  unfold storageWords
  generalize s.par.cpuId = cpu
  revert cpu
  decide

/-- The temporary storage holds registers 5, 6, 7. -/
theorem decimalStart_storage (s : State) :
    (storageWords s).map (decimalStart s).wordAt = [s.reg .r5, s.reg .r6, s.reg .r7] := by
  have hapart : (savedWords s).Pairwise fun p q => p.2 &&& 0xFFFE ≠ q.2 &&& 0xFFFE :=
    List.Pairwise.of_map (l := savedWords s) Prod.snd (fun _ _ => id) (storageWords_apart s)
  have hstored : ∀ p ∈ savedWords s, (decimalStart s).wordAt p.2 = s.reg p.1 := by
    refine foldl_transfers (src := fun (p : Reg × Word) u => u.reg p.1) (tgt := fun p u => u.wordAt p.2)
      (fun p u => State.wordAt_putWord_self ..) (fun _ _ _ => rfl) ?_ s
    exact hapart.imp fun hne u => State.wordAt_putWord_ne _ _ _ _ hne
  exact List.map_congr_left (l := savedWords s) hstored

theorem saveRegisters_memory {s : State} (h : WordsInMemory s (storageWords s)) :
    saveRegisters (s.setPc (s.pc + 4)) = .ok () (decimalStart s) := by
  unfold saveRegisters
  rw [temporaryWords_eq]
  exact eachOf_storedRegister fun p hp => h p.2 (List.of_mem_zip hp).2

section
variable {op : DecimalOp} {reg1 reg2 : Reg} {o : DecOperands} {s t : State}

theorem DecimalReady.source (h : DecimalReady op reg1 reg2 o s) :
    BytesInMemory (decimalStart s) (bytesOfField (sourceOf reg1 o s)) := by
  obtain ⟨-, -, -, -, -, -, -, -, hsrc, -⟩ := h
  exact hsrc.decimalStart

theorem DecimalReady.second (h : DecimalReady op reg1 reg2 o s) :
    BytesInMemory (decimalStart s) (bytesOfField (secondField op reg1 reg2 o s)) := by
  obtain ⟨-, -, -, -, -, -, -, -, -, hdst⟩ := h
  exact hdst.decimalStart

theorem appended_setPc (x : Reg) (s : State) (v : Word) : appended x (s.setPc v) = appended x s := by
  unfold appended
  split
  · rfl
  · rw [State.reg_setPc_ne _ _ _ ‹_›]

theorem sourceField_setPc (h : reg1 ≠ .r0) (v : Word) : sourceField reg1 o (s.setPc v) = sourceOf reg1 o s := by
  rw [sourceField_eq, sourceOf, appended_setPc, State.reg_setPc_ne _ _ _ h, sourceOf]

theorem destField_setPc (h : reg2 ≠ .r0) (v : Word) : destField reg2 o (s.setPc v) = destOf reg2 o s := by
  rw [destField_eq, destOf, appended_setPc, State.reg_setPc_ne _ _ _ h, destOf]

/-- A class C instruction that can run acts on its two fields once the registers are saved. -/
theorem decimal_of_ready {written : Field → Field → List Word} {body : Field → Field → State → Res Unit}
    (h : DecimalReady op reg1 reg2 o s)
    (hbody : body (sourceOf reg1 o s) (secondField op reg1 reg2 o s) (decimalStart s) = .ok () t) :
    decimal op (twoFields op) written reg1 reg2 o body s = .next t := by
  obtain ⟨hmodel, h7, h3, h1, h2, hsrc, hdst, hstorage, -⟩ := h
  unfold decimal
  rw [executeOn_of_implemented hmodel]
  refine execute_of_ok ?_
  have hsecond : (if twoFields op then destField reg2 o (startOf (decimalCode op reg1 reg2 o) s)
      else sourceField reg1 o (startOf (decimalCode op reg1 reg2 o) s)) = secondField op reg1 reg2 o s := by
    unfold secondField
    split
    · exact destField_setPc (h2 ‹_›) _
    · exact sourceField_setPc h1 _
  have hsource : sourceField reg1 o (startOf (decimalCode op reg1 reg2 o) s) = sourceOf reg1 o s := sourceField_setPc h1 _
  have hnamed : (reg1 == .r0 || twoFields op && reg2 == .r0) = false := by
    simp only [Bool.or_eq_false_iff, beq_eq_false_iff_ne, ne_eq, h1, not_false_eq_true, true_and, Bool.and_eq_false_imp]
    exact h2
  dsimp only
  rw [hsecond, hsource, h7, h3, hnamed, if_neg (by decide), if_neg (by decide),
    if_neg (by simp [fieldFits, hsrc, hdst]), Res.onAbort_eq_ok]
  exact (congrArg (Res.bind · _) (saveRegisters_memory hstorage)).trans hbody

variable (hop : twoFields op = true)
include hop

theorem DecimalReady.dest (h : DecimalReady op reg1 reg2 o s) :
    BytesInMemory (decimalStart s) (bytesOfField (destOf reg2 o s)) := by
  have hsecond := h.second
  rwa [secondField, if_pos hop] at hsecond

theorem decimal_two_of_ready {written : Field → Field → List Word} {body : Field → Field → State → Res Unit}
    (h : DecimalReady op reg1 reg2 o s)
    (hbody : body (sourceOf reg1 o s) (destOf reg2 o s) (decimalStart s) = .ok () t) :
    decimal op true written reg1 reg2 o body s = .next t := by
  have hdone := decimal_of_ready (written := written) (body := body) (t := t) h
  rw [hop, secondField, if_pos hop] at hdone
  exact hdone hbody

end

/-! ## The bytes of a field -/

section
variable {f : Field} {s : State} {k : Nat}

theorem byteAddressRight_mem (h : k < f.len) : byteAddressRight f k ∈ bytesOfField f :=
  List.mem_map_of_mem (List.mem_range.mpr h)

theorem byteAddress_mem (h : k < f.len) : byteAddress f k ∈ bytesOfField f := by
  have hright := byteAddressRight_mem (f := f) (k := f.len - 1 - k) (by omega)
  rwa [byteAddressRight, show f.len - 1 - (f.len - 1 - k) = k by omega] at hright

theorem bytesOfField_length (f : Field) : (bytesOfField f).length = f.len := by simp [bytesOfField]

theorem fieldContent_length (f : Field) (s : State) : (fieldContent f s).length = f.len := by
  rw [fieldContent, List.length_map, bytesOfField_length]

/-- The addresses of a field that fits the address space are apart, also where they wrap around (R323). -/
theorem bytesOfField_nodup (h : f.len ≤ 65536) : (bytesOfField f).Nodup := by
  refine List.Nodup.map_on (fun j hj k hk he => ?_) List.nodup_range
  have hoffset := congrArg BitVec.toNat ((BitVec.add_right_inj _).mp he)
  simp only [BitVec.toNat_ofNat, List.mem_range] at hoffset hj hk
  omega

theorem rightByte_widened (b : Byte) : rightByte (b.setWidth 16) = b := by
  unfold rightByte; grind

/-- One byte of program memory read, without its width (R65). -/
theorem busRead_byte_memory {a : Word} (h : InMemory s .byte a) :
    (busRead .byte a s).bind (fun v s => .ok (rightByte v) s) = .ok (s.byteAt a.toNat) s := by
  rw [busRead_memory h, Res.bind_ok, State.fetchData, rightByte_widened]

theorem moveByte_memory {dst src : Word} (h : BytesInMemory s [dst, src]) :
    moveByte dst src s = .ok () (copyByte dst src s) := by
  obtain ⟨hdst, hsrc⟩ : InMemory s .byte dst ∧ InMemory s .byte src := by simpa [BytesInMemory] using h
  rw [moveByte, busRead_memory hsrc, Res.bind_ok, busWrite_memory hdst, State.putData, State.fetchData, rightByte_widened]
  rfl

theorem collect_bytes {as : List Word} (h : BytesInMemory s as) :
    collect (fun a s => (busRead .byte a s).bind fun v s => .ok (rightByte v) s) as s =
      .ok (as.map fun a => s.byteAt a.toNat) s := by
  induction as with
  | nil => rfl
  | cons a as ih =>
    obtain ⟨ha, has⟩ := List.forall_mem_cons.mp h
    rw [collect, busRead_byte_memory ha, Res.bind_ok, ih has]
    rfl

theorem readField_memory (h : BytesInMemory s (bytesOfField f)) : readField f s = .ok (fieldContent f s) s :=
  collect_bytes h

/-- The bytes of a field written, from its right end. -/
def storedField (f : Field) (bs : List Byte) (s : State) : State :=
  ((bytesOfField f).zip bs).foldl (fun u p => u.putByte p.1.toNat p.2) s

theorem writeField_memory (h : BytesInMemory s (bytesOfField f)) (bs : List Byte) :
    writeField f bs s = .ok () (storedField f bs s) ∧ WritesOnly 0 (bytesOfField f) s (storedField f bs s) := by
  refine eachOf_writesOnly (used := fun p => [p.1]) (target := Prod.fst) (fun p u hu => ?_)
    (fun p u => putByte_writesOnly u p.1 p.2) (fun p hp => ?_) (fun a ha => ?_)
  · rw [busWrite_memory (hu p.1 List.mem_cons_self), State.putData, rightByte_widened]
  · exact List.forall_mem_singleton.mpr (h p.1 (List.of_mem_zip hp).1)
  · obtain ⟨p, hp, rfl⟩ := List.mem_map.mp ha
    exact (List.of_mem_zip hp).1

/-- The content of a field just written. -/
theorem fieldContent_storedField (h : f.len ≤ 65536) {bs : List Byte} (hlen : bs.length = f.len) (s : State) :
    fieldContent f (storedField f bs s) = bs := by
  have hfst : ((bytesOfField f).zip bs).map Prod.fst = bytesOfField f :=
    List.map_fst_zip (by rw [bytesOfField_length, hlen])
  have hsnd : ((bytesOfField f).zip bs).map Prod.snd = bs := List.map_snd_zip (by rw [bytesOfField_length, hlen])
  have hapart : ((bytesOfField f).zip bs).Pairwise fun p q => p.1 ≠ q.1 :=
    List.Pairwise.of_map Prod.fst (fun _ _ => id) (hfst.symm ▸ bytesOfField_nodup h)
  have hstored : ∀ p ∈ (bytesOfField f).zip bs, (storedField f bs s).byteAt p.1.toNat = p.2 := by
    refine foldl_transfers (g := fun u (p : Word × Byte) => u.putByte p.1.toNat p.2) (src := fun p _ => p.2)
      (tgt := fun p u => u.byteAt p.1.toNat) (fun p u => ?_) (fun _ _ _ => rfl) (hapart.imp fun hne u => ?_) s
    · rw [State.byteAt_putByte, if_pos rfl]
    · rw [State.byteAt_putByte, if_neg fun he => hne (BitVec.eq_of_toNat_eq he)]
  calc fieldContent f (storedField f bs s)
      = ((bytesOfField f).zip bs).map fun p => (storedField f bs s).byteAt p.1.toNat := by
        rw [fieldContent, ← hfst, List.map_map, hfst]; rfl
    _ = ((bytesOfField f).zip bs).map Prod.snd := List.map_congr_left hstored
    _ = bs := hsnd

theorem writeOpen_memory (h : BytesInMemory s (bytesOfField f)) :
    ∃ t, writeOpen f s = .ok () t ∧ WritesOnly 0 (bytesOfField f) s t := by
  refine ⟨_, eachOf_writesOnly (g := fun u a => u.countFree.putByte a.toNat (rightByte u.freeWord)) (used := fun a => [a])
    (target := id) (fun a u hu => ?_) (fun a u => ?_)
    (fun a ha => List.forall_mem_singleton.mpr (h a ha)) (by rw [List.map_id, fieldBytes_eq]; exact List.Subset.refl _)⟩
  · exact busWrite_memory (s := u.countFree) (hu a List.mem_cons_self)
  · exact ((countFree_writesOnly u).mono (List.nil_subset _)).trans (putByte_writesOnly ..)

end

/-! ## The moves -/

section
variable {src dst : Field} {s : State}

theorem copyByte_writesOnly (dst src : Word) (s : State) : WritesOnly 0 [dst] s (copyByte dst src s) :=
  putByte_writesOnly ..

theorem moveBytes_memory {xs : List Nat} {target source : Nat → Word} {bytes : List Word}
    (h : ∀ k ∈ xs, BytesInMemory s [target k, source k]) (hb : xs.map target ⊆ bytes) :
    eachOf (fun k s => moveByte (target k) (source k) s) xs s =
        .ok () (xs.foldl (fun u k => copyByte (target k) (source k) u) s) ∧
      WritesOnly 0 bytes s (xs.foldl (fun u k => copyByte (target k) (source k) u) s) :=
  eachOf_writesOnly (fun k => [target k, source k]) target (fun _ _ => moveByte_memory)
    (fun _ u => copyByte_writesOnly _ _ u) h hb

/-- The byte number k from the right of ZADD's destination: the source's, or zero beyond the source (R330). -/
def zaddByte (src dst : Field) (s : State) (k : Nat) : State :=
  if k < src.len then copyByte (byteAddressRight dst k) (byteAddressRight src k) s
  else s.putByte (byteAddressRight dst k).toNat 0

variable (hsrc : BytesInMemory s (bytesOfField src)) (hdst : BytesInMemory s (bytesOfField dst))
include hsrc hdst

theorem zaddBytes_memory :
    eachOf (fun k s => if k < src.len then moveByte (fieldByteRight dst k) (fieldByteRight src k) s
        else busWrite .byte (fieldByteRight dst k) 0 s) (List.range dst.len) s =
        .ok () ((List.range dst.len).foldl (zaddByte src dst) s) ∧
      WritesOnly 0 (bytesOfField dst) s ((List.range dst.len).foldl (zaddByte src dst) s) := by
  refine eachOf_writesOnly (g := zaddByte src dst)
    (used := fun k => if k < src.len then [byteAddressRight dst k, byteAddressRight src k] else [byteAddressRight dst k])
    (target := byteAddressRight dst) (fun k u hu => ?_) (fun k u => ?_) (fun k hk => ?_) (List.Subset.refl _)
  · unfold zaddByte
    split at hu
    · rw [if_pos ‹_›, if_pos ‹_›]
      exact moveByte_memory hu
    · rw [if_neg ‹_›, if_neg ‹_›]
      exact busWrite_memory (hu _ List.mem_cons_self)
  · unfold zaddByte
    split
    · exact copyByte_writesOnly ..
    · exact putByte_writesOnly ..
  · have hto := hdst _ (byteAddressRight_mem (List.mem_range.mp hk))
    split
    · exact List.forall_mem_cons.mpr ⟨hto, List.forall_mem_singleton.mpr (hsrc _ (byteAddressRight_mem ‹_›))⟩
    · exact List.forall_mem_singleton.mpr hto

/-- The moves of as many bytes as the shorter field has, from an end of both (R338, R340). -/
theorem fieldMoves_memory {byteOf : Field → Nat → Word}
    (hmem : ∀ {f : Field} {k : Nat}, k < f.len → byteOf f k ∈ bytesOfField f) :
    let t := (List.range (min src.len dst.len)).foldl (fun u k => copyByte (byteOf dst k) (byteOf src k) u) s
    eachOf (fun k s => moveByte (byteOf dst k) (byteOf src k) s) (List.range (min src.len dst.len)) s = .ok () t ∧
      WritesOnly 0 (bytesOfField dst) s t := by
  refine moveBytes_memory (fun k hk => ?_) (fun a ha => ?_)
  · obtain ⟨hs, hd⟩ := lt_min_iff.mp (List.mem_range.mp hk)
    exact List.forall_mem_cons.mpr ⟨hdst _ (hmem hd), List.forall_mem_singleton.mpr (hsrc _ (hmem hs))⟩
  · obtain ⟨k, hk, rfl⟩ := List.mem_map.mp ha
    exact hmem (lt_min_iff.mp (List.mem_range.mp hk)).2

end

section
variable {reg1 reg2 : Reg} {o : DecOperands} {s : State}

theorem exec_zadd_of_ready (h : DecimalReady .zadd reg1 reg2 o s) : exec (.zadd reg1 reg2 o) s =
    .next ((List.range (destOf reg2 o s).len).foldl (zaddByte (sourceOf reg1 o s) (destOf reg2 o s)) (decimalStart s)) := by
  show zeroAndAdd reg1 reg2 o s = _
  exact decimal_two_of_ready rfl h (zaddBytes_memory h.source (h.dest rfl)).1

theorem exec_movr_of_ready (h : DecimalReady .movr reg1 reg2 o s) :
    exec (.movr reg1 reg2 o) s = .next ((List.range (min (sourceOf reg1 o s).len (destOf reg2 o s).len)).foldl
      (fun u k => copyByte (byteAddressRight (destOf reg2 o s) k) (byteAddressRight (sourceOf reg1 o s) k) u)
      (decimalStart s)) := by
  show moveRight reg1 reg2 o s = _
  exact decimal_two_of_ready rfl h (fieldMoves_memory h.source (h.dest rfl) byteAddressRight_mem).1

theorem exec_movl_of_ready (h : DecimalReady .movl reg1 reg2 o s) :
    exec (.movl reg1 reg2 o) s = .next ((List.range (min (sourceOf reg1 o s).len (destOf reg2 o s).len)).foldl
      (fun u k => copyByte (byteAddress (destOf reg2 o s) k) (byteAddress (sourceOf reg1 o s) k) u) (decimalStart s)) := by
  show moveLeft reg1 reg2 o s = _
  exact decimal_two_of_ready rfl h (fieldMoves_memory h.source (h.dest rfl) byteAddress_mem).1

end

/-- Settles O49: byte by byte from the saved state. -/
theorem fieldMovesComplete : Obligations.FieldMovesComplete :=
  fun _ _ _ _ => ⟨exec_zadd_of_ready, exec_movr_of_ready, exec_movl_of_ready⟩

end Sys2Proof.Machine

/-! PROOF. The compares of class C: numbers, and bytes from the left. -/

namespace Sys2Proof.Machine

/-! ## EQ and GT written -/

theorem flag_eq_setCompare (st : Word) (eq gt : Bool) : flag (setCompare st eq gt) .eq = eq := by
  rw [setCompare, flag_putFlag, if_neg (by decide), flag_putFlag_self]

theorem flag_gt_setCompare (st : Word) (eq gt : Bool) : flag (setCompare st eq gt) .gt = gt := flag_putFlag_self ..

theorem setCompare_writesOnly (s : State) (eq gt : Bool) : WritesOnly 0x0003 [] s (s.setSt (setCompare s.st eq gt)) :=
  ⟨rfl, setSt_same (setCompare_same ..)⟩

theorem freeStatus_writesOnly (mask : Word) (s : State) : WritesOnly mask [] s (s.freeStatus mask) :=
  ⟨rfl, freeStatus_same ..⟩

/-! ## Numbers (R336) -/

section
variable {reg1 reg2 : Reg} {o : DecOperands} {s : State}

/-- The state that CMPD leaves: EQ and GT of the numbers, or open for invalid data (R327, R336). -/
def comparedNumbers (source dest : List Byte) (s : State) : State :=
  if !validDecimal source || !validDecimal dest then s.freeStatus 0x0003
  else s.setSt (setCompare s.st (decimalValue source == decimalValue dest) (decide (decimalValue dest < decimalValue source)))

theorem comparedNumbers_writesOnly (source dest : List Byte) (s : State) :
    WritesOnly 0x0003 [] s (comparedNumbers source dest s) := by
  unfold comparedNumbers
  split
  · exact freeStatus_writesOnly ..
  · exact setCompare_writesOnly ..

theorem comparedNumbers_of_valid {source dest : List Byte} (hs : FieldValid source) (hd : FieldValid dest) (s : State) :
    comparedNumbers source dest s = s.setSt (setCompare s.st (decide (fieldNumber source = fieldNumber dest))
      (decide (fieldNumber dest < fieldNumber source))) := by
  rw [comparedNumbers, (validDecimal_iff _).mpr hs, (validDecimal_iff _).mpr hd, if_neg (by decide), decimalValue_eq,
    decimalValue_eq, beq_eq_decide]

theorem exec_cmpd_of_ready (h : DecimalReady .cmpd reg1 reg2 o s) : exec (.cmpd reg1 reg2 o) s =
    .next (comparedNumbers (fieldContent (sourceOf reg1 o s) (decimalStart s))
      (fieldContent (destOf reg2 o s) (decimalStart s)) (decimalStart s)) := by
  show compareDecimal reg1 reg2 o s = _
  refine decimal_two_of_ready rfl h ?_
  rw [readField_memory h.source, Res.bind_ok, readField_memory (h.dest rfl)]
  rfl

end

/-- Settles O51: both fields read, then the numbers compared. -/
theorem decimalCompareCompletes : Obligations.DecimalCompareCompletes := by
  intro reg1 reg2 o s h source dest hs hd
  have hexec : exec (.cmpd reg1 reg2 o) s = .next (comparedNumbers source dest (decimalStart s)) := exec_cmpd_of_ready h
  rw [comparedNumbers_of_valid hs hd] at hexec
  exact ⟨_, hexec, flag_eq_setCompare .., flag_gt_setCompare ..⟩

/-! ## Bytes from the left (R341) -/

section
variable {src dst : Field} {s : State}

theorem paddedByte_memory (h : BytesInMemory s (bytesOfField src)) (k : Nat) :
    paddedByte src k s = .ok (extendedByte src s k) s := by
  unfold paddedByte extendedByte
  split
  · exact busRead_byte_memory (h _ (byteAddress_mem ‹_›))
  · rfl

/-- The first byte number of a list at which the extended fields differ. -/
def firstDifference (src dst : Field) (s : State) (ks : List Nat) : Option Nat :=
  ks.find? fun k => extendedByte src s k != extendedByte dst s k

/-- The source byte is the greater one where the fields first differ. -/
def firstGreater (src dst : Field) (s : State) (ks : List Nat) : Bool :=
  (firstDifference src dst s ks).any fun k => decide ((extendedByte dst s k).toNat < (extendedByte src s k).toNat)

theorem compareScan_memory (hsrc : BytesInMemory s (bytesOfField src)) (hdst : BytesInMemory s (bytesOfField dst))
    (ks : List Nat) : compareScan src dst ks s =
      .ok () (s.setSt (setCompare s.st (firstDifference src dst s ks).isNone (firstGreater src dst s ks))) := by
  induction ks with
  | nil => rfl
  | cons k ks ih =>
    rw [compareScan, paddedByte_memory hsrc, Res.bind_ok, paddedByte_memory hdst, Res.bind_ok, firstGreater, firstDifference,
      List.find?_cons]
    by_cases he : extendedByte src s k = extendedByte dst s k
    · rw [if_pos he, ih, bne_eq_false_iff_eq.mpr he]; rfl
    · rw [if_neg he, bne_iff_ne.mpr he]; rfl

theorem firstDifference_isNone_iff (len : Nat) : (firstDifference src dst s (List.range len)).isNone = true ↔
    ∀ k < len, extendedByte src s k = extendedByte dst s k := by
  rw [Option.isNone_iff_eq_none, firstDifference, List.find?_eq_none]
  simp

theorem firstGreater_iff (len : Nat) : firstGreater src dst s (List.range len) = true ↔
    ∃ k < len, (∀ j < k, extendedByte src s j = extendedByte dst s j) ∧
      (extendedByte dst s k).toNat < (extendedByte src s k).toNat := by
  rw [firstGreater, Option.any_eq_true]
  simp only [firstDifference, List.find?_range_eq_some, List.mem_range, Bool.not_eq_true', bne_eq_false_iff_eq, bne_iff_ne,
    decide_eq_true_eq]
  refine ⟨fun ⟨k, ⟨_, hk, heq⟩, hlt⟩ => ⟨k, hk, heq, hlt⟩,
    fun ⟨k, hk, heq, hlt⟩ => ⟨k, ⟨fun he => ?_, hk, heq⟩, hlt⟩⟩
  rw [he] at hlt
  exact absurd hlt (Nat.lt_irrefl _)

end

/-- The byte numbers that COMP scans: those of the longer field (R341). -/
def scannedBytes (src dst : Field) : List Nat := List.range (max src.len dst.len)

theorem exec_comp_of_ready {reg1 reg2 : Reg} {o : DecOperands} {s : State} (h : DecimalReady .comp reg1 reg2 o s) :
    let src := sourceOf reg1 o s
    let dst := destOf reg2 o s
    exec (.comp reg1 reg2 o) s = .next ((decimalStart s).setSt (setCompare (decimalStart s).st
      (firstDifference src dst (decimalStart s) (scannedBytes src dst)).isNone
      (firstGreater src dst (decimalStart s) (scannedBytes src dst)))) := by
  show compareFields reg1 reg2 o s = _
  exact decimal_two_of_ready rfl h (compareScan_memory h.source (h.dest rfl) _)

/-- Settles O53: the scan stops at the first difference, if there is one. -/
theorem fieldCompareCompletes : Obligations.FieldCompareCompletes := by
  intro reg1 reg2 o s h a b len
  refine ⟨_, exec_comp_of_ready h, ?_, ?_⟩
  · rw [State.setSt_st, flag_eq_setCompare]
    exact firstDifference_isNone_iff len
  · rw [State.setSt_st, flag_gt_setCompare]
    exact firstGreater_iff len

end Sys2Proof.Machine

/-! PROOF. The decimal sums and shifts of class C: the nibbles of a field as its digits and its sign, and all that a class C
instruction changes. -/

namespace Sys2Proof.Machine

/-! ## Bytes from nibbles (R325) -/

theorem nibblesOf_bytesOfNibbles : ∀ {ns : List (BitVec 4)}, ns.length % 2 = 0 → nibblesOf (bytesOfNibbles ns) = ns
  | [], _ => rfl
  | [_], h => by simp at h
  | lo :: hi :: ns, h => by
    have hlo : (hi ++ lo).extractLsb' 0 4 = lo := by grind
    have hhi : (hi ++ lo).extractLsb' 4 4 = hi := by grind
    rw [bytesOfNibbles, nibblesOf, hlo, hhi, nibblesOf_bytesOfNibbles (by rw [List.length_cons, List.length_cons] at h; omega)]

section
variable {sign : BitVec 4} {ds : List (BitVec 4)} {len : Nat}

/-- The bytes of a sign and the digits of a field of a length. -/
theorem bytesOfNibbles_length (hlen : 0 < len) (hds : ds.length = 2 * len - 1) :
    (bytesOfNibbles (sign :: ds)).length = len := by
  have hnibbles := nibblesOf_length (bytesOfNibbles (sign :: ds))
  rw [nibblesOf_bytesOfNibbles (by rw [List.length_cons]; omega), List.length_cons] at hnibbles
  omega

variable (hds : ds.length % 2 = 1)
include hds

theorem nibblesOf_signed : nibblesOf (bytesOfNibbles (sign :: ds)) = sign :: ds :=
  nibblesOf_bytesOfNibbles (by rw [List.length_cons]; omega)

theorem fieldSign_bytesOfNibbles : fieldSign (bytesOfNibbles (sign :: ds)) = sign := by
  rw [← signNibble_eq, signNibble, nibblesOf_signed hds]; rfl

theorem digitsOf_bytesOfNibbles : digitsOf (bytesOfNibbles (sign :: ds)) = ds := by
  rw [digitsOf, nibblesOf_signed hds]; rfl

end

/-! ## Decimal digits of a number -/

theorem decimalDigits_length (n : Nat) : ∀ v, (decimalDigits n v).length = n := by
  induction n with
  | zero => exact fun _ => rfl
  | succ n ih => exact fun v => by rw [decimalDigits, List.length_cons, ih]

theorem digit_toNat (v : Nat) : (BitVec.ofNat 4 (v % 10)).toNat = v % 10 := by
  rw [BitVec.toNat_ofNat]; omega

theorem decimalDigits_le (n : Nat) : ∀ v, ∀ d ∈ decimalDigits n v, d.toNat ≤ 9 := by
  induction n with
  | zero => exact fun _ _ hd => absurd hd List.not_mem_nil
  | succ n ih =>
    refine fun v => List.forall_mem_cons.mpr ⟨?_, ih _⟩
    rw [digit_toNat]; omega

/-- The n low decimal digits give the number back where it has no more. -/
theorem digitsValue_decimalDigits (n : Nat) : ∀ {v}, v < 10 ^ n → digitsValue (decimalDigits n v) = v := by
  induction n with
  | zero => exact fun h => by rw [decimalDigits, digitsValue]; omega
  | succ n ih =>
    intro v h
    rw [decimalDigits, digitsValue, digit_toNat, ih (by rw [Nat.pow_succ] at h; omega)]
    omega

/-! ## Sums (R331, R332) -/

/-- A field of the nibbles of a sum holds that sum, truncated, with its sign. -/
theorem sumStored_sumNibbles (v : Int) {len : Nat} (hlen : 0 < len) {original : BitVec 4} {before : List Byte}
    (hbefore : signNibble before = original) (choice : Bool) :
    SumStored v len before (bytesOfNibbles (sumNibbles v len original choice)) := by
  have hds : (decimalDigits (2 * len - 1) (v.natAbs % 10 ^ (2 * len - 1))).length = 2 * len - 1 := decimalDigits_length ..
  have hodd : (decimalDigits (2 * len - 1) (v.natAbs % 10 ^ (2 * len - 1))).length % 2 = 1 := by omega
  have hm : v.natAbs % 10 ^ (2 * len - 1) < 10 ^ (2 * len - 1) := Nat.mod_lt _ (Nat.pow_pos (by decide))
  rw [SumStored, sumNibbles]
  generalize v.natAbs % 10 ^ (2 * len - 1) = m at *
  refine ⟨bytesOfNibbles_length hlen hds, ?_, ?_, ?_⟩
  · rw [← digitsValid_iff, digitsOf_bytesOfNibbles hodd, List.all_eq_true]
    exact fun d hd => decide_eq_true (decimalDigits_le _ _ d hd)
  · rw [← digitsValue_eq, digitsOf_bytesOfNibbles hodd, digitsValue_decimalDigits _ hm]
  · rw [fieldSign_bytesOfNibbles hodd, ← signNibble_eq, hbefore]
    refine ⟨fun h0 => if_pos h0, fun ⟨hpos, hne⟩ => ?_, fun ⟨hneg, hne⟩ => ?_, fun ⟨h0, hz⟩ => ?_⟩
    · rw [if_neg hpos.ne', if_neg hne, if_pos hpos]
    · rw [if_neg hneg.ne, if_neg hne, if_neg hneg.not_gt]
    · rw [if_neg h0, if_pos hz]
      cases choice
      · exact .inr rfl
      · exact .inl rfl

section
variable {src dst : Field} {s : State} (combine : Int → Int → Int)

section
variable (hsrc : BytesInMemory s (bytesOfField src)) (hdst : BytesInMemory s (bytesOfField dst))
include hsrc hdst

theorem decimalSum_memory : decimalSum combine src dst s =
    if (fieldsOverlap src dst && src != dst) || !validDecimal (fieldContent src s) || !validDecimal (fieldContent dst s) then
      writeOpen dst s
    else writeField dst (bytesOfNibbles (sumNibbles
      (combine (decimalValue (fieldContent dst s)) (decimalValue (fieldContent src s))) dst.len
      (signNibble (fieldContent dst s)) s.freeBit)) s.countFree := by
  rw [decimalSum, readField_memory hsrc, Res.bind_ok, readField_memory hdst, Res.bind_ok]

/-- A sum completes, whatever the fields hold. -/
theorem decimalSum_completes :
    ∃ t, decimalSum combine src dst s = .ok () t ∧ WritesOnly 0 (bytesOfField dst) s t := by
  rw [decimalSum_memory combine hsrc hdst]
  split
  · exact writeOpen_memory hdst
  · obtain ⟨hok, hsame⟩ := writeField_memory (s := s.countFree) hdst _
    exact ⟨_, hok, ((countFree_writesOnly s).mono (List.nil_subset _)).trans hsame⟩

/-- A sum of valid fields that are apart or the same is stored. -/
theorem decimalSum_stored (hs0 : 0 < src.len) (hd0 : 0 < dst.len) (hfit : dst.len ≤ 65536)
    (hapart : (∀ w ∈ bytesOfField src, w ∉ bytesOfField dst) ∨ src = dst) (hvs : FieldValid (fieldContent src s))
    (hvd : FieldValid (fieldContent dst s)) :
    ∃ t, decimalSum combine src dst s = .ok () t ∧
      SumStored (combine (fieldNumber (fieldContent dst s)) (fieldNumber (fieldContent src s))) dst.len
        (fieldContent dst s) (fieldContent dst t) := by
  have hoverlap : (fieldsOverlap src dst && src != dst) = false := by
    rcases hapart with hapart | rfl
    · rw [fieldsOverlap_false hs0 hd0 hapart]; rfl
    · rw [bne_self_eq_false, Bool.and_false]
  rw [decimalSum_memory combine hsrc hdst, hoverlap, (validDecimal_iff _).mpr hvs, (validDecimal_iff _).mpr hvd,
    if_neg (by decide), decimalValue_eq, decimalValue_eq]
  generalize hv : combine _ _ = v
  have hstored := sumStored_sumNibbles v hd0 (before := fieldContent dst s) rfl s.freeBit
  obtain ⟨hlen, -⟩ := id hstored
  obtain ⟨hok, -⟩ := writeField_memory (s := s.countFree) hdst
    (bytesOfNibbles (sumNibbles v dst.len (signNibble (fieldContent dst s)) s.freeBit))
  refine ⟨_, hok, ?_⟩
  rwa [fieldContent_storedField hfit hlen]

end
end

section
variable {reg1 reg2 : Reg} {o : DecOperands} {s : State}

theorem DecimalReady.dest_fits {op : DecimalOp} (hop : twoFields op = true) (h : DecimalReady op reg1 reg2 o s) :
    (destOf reg2 o s).len ≤ 65536 := by
  obtain ⟨-, -, -, -, -, -, hfit, -⟩ := h
  rwa [secondField, if_pos hop] at hfit

theorem DecimalReady.source_fits {op : DecimalOp} (h : DecimalReady op reg1 reg2 o s) :
    (sourceOf reg1 o s).len ≤ 65536 := by
  obtain ⟨-, -, -, -, -, hfit, -⟩ := h
  exact hfit

theorem exec_addd_of_ready (h : DecimalReady .addd reg1 reg2 o s) {t : State}
    (hsum : decimalSum (fun d v => d + v) (sourceOf reg1 o s) (destOf reg2 o s) (decimalStart s) = .ok () t) :
    exec (.addd reg1 reg2 o) s = .next t := by
  show addDecimal reg1 reg2 o s = _
  exact decimal_two_of_ready rfl h hsum

theorem exec_subd_of_ready (h : DecimalReady .subd reg1 reg2 o s) {t : State}
    (hsum : decimalSum (fun d v => d - v) (sourceOf reg1 o s) (destOf reg2 o s) (decimalStart s) = .ok () t) :
    exec (.subd reg1 reg2 o) s = .next t := by
  show subtractDecimal reg1 reg2 o s = _
  exact decimal_two_of_ready rfl h hsum

end

/-- Settles O50: both fields read, and the nibbles of the sum written to the destination. -/
theorem decimalSumsStored : Obligations.DecimalSumsStored := by
  intro reg1 reg2 o s src dst before source hapart hsource hbefore
  have hs0 : 0 < src.len := Nat.succ_pos _
  have hd0 : 0 < dst.len := Nat.succ_pos _
  refine ⟨fun h => ?_, fun h => ?_⟩
  · obtain ⟨t, hsum, hstored⟩ := decimalSum_stored (fun d v => d + v) h.source (h.dest rfl) hs0 hd0 (h.dest_fits rfl) hapart
      hsource hbefore
    exact ⟨t, exec_addd_of_ready h hsum, hstored⟩
  · obtain ⟨t, hsum, hstored⟩ := decimalSum_stored (fun d v => d - v) h.source (h.dest rfl) hs0 hd0 (h.dest_fits rfl) hapart
      hsource hbefore
    exact ⟨t, exec_subd_of_ready h hsum, hstored⟩

/-! ## Shifts (R337, R339) -/

section
variable {n : Nat} {ds : List (BitVec 4)}

theorem shiftedRight_length : (shiftedRight n ds).length = ds.length := by simp [shiftedRight]

theorem shiftedLeft_length : (shiftedLeft n ds).length = ds.length := by simp [shiftedLeft]

theorem shiftedRight_getD {j : Nat} (hj : j < ds.length) :
    (shiftedRight n ds).getD j 0 = if j + n < ds.length then ds.getD (j + n) 0 else 0 := by
  rw [shiftedRight, List.getD_eq_getElem?_getD, List.getElem?_take, if_pos hj, List.getElem?_append, List.length_drop]
  by_cases h : j + n < ds.length
  · rw [if_pos (by omega), if_pos h, List.getElem?_drop, Nat.add_comm, List.getD_eq_getElem?_getD]
  · rw [if_neg (by omega), if_neg h, List.getElem?_replicate, if_pos (by omega)]; rfl

theorem shiftedLeft_getD {j : Nat} (hj : j < ds.length) :
    (shiftedLeft n ds).getD j 0 = if j < n then 0 else ds.getD (j - n) 0 := by
  rw [shiftedLeft, List.getD_eq_getElem?_getD, List.getElem?_take, if_pos hj, List.getElem?_append, List.length_replicate]
  by_cases h : j < n
  · rw [if_pos (by omega), if_pos h, List.getElem?_replicate, if_pos (by omega)]; rfl
  · rw [if_neg (by omega), if_neg h, List.getD_eq_getElem?_getD, Nat.min_eq_left (by omega)]

end

/-- The field of a decimal shift with its new digits and its sign. -/
def shiftedBytes (shifted : Nat → List (BitVec 4) → List (BitVec 4)) (n : Nat) (bs : List Byte) : List Byte :=
  bytesOfNibbles (signNibble bs :: shifted n (digitsOf bs))

/-- The shift count SC of a decimal shift (R321). -/
def shiftCount (o : DecOperands) (s : State) : Nat := o.l2.toNat + appended o.x2 s

section
variable {shifted : Nat → List (BitVec 4) → List (BitVec 4)} (hshifted : ∀ n ds, (shifted n ds).length = ds.length)
include hshifted

/-- A shift that keeps the number of digits keeps the length and the sign, and gives its digits. -/
theorem shiftedBytes_done (n : Nat) {bs : List Byte} (h0 : 0 < bs.length) :
    (shiftedBytes shifted n bs).length = bs.length ∧ fieldSign (shiftedBytes shifted n bs) = fieldSign bs ∧
      digitsOf (shiftedBytes shifted n bs) = shifted n (digitsOf bs) := by
  have hlen : (shifted n (digitsOf bs)).length = 2 * bs.length - 1 := (hshifted ..).trans (digitsOf_length bs)
  refine ⟨bytesOfNibbles_length h0 hlen, ?_, digitsOf_bytesOfNibbles (by omega)⟩
  rw [shiftedBytes, fieldSign_bytesOfNibbles (by omega), signNibble_eq]

end

section
variable {op : DecimalOp} {shifted : Nat → List (BitVec 4) → List (BitVec 4)} {reg1 reg2 : Reg} {o : DecOperands} {s : State}

/-- The state that a decimal shift leaves. -/
def shiftedState (shifted : Nat → List (BitVec 4) → List (BitVec 4)) (f : Field) (n : Nat) (s : State) : State :=
  storedField f (shiftedBytes shifted n (fieldContent f s)) s

theorem decimalShift_of_ready (hop : twoFields op = false) (h : DecimalReady op reg1 reg2 o s) :
    decimalShift op shifted reg1 reg2 o s =
      .next (shiftedState shifted (sourceOf reg1 o s) (shiftCount o s) (decimalStart s)) := by
  have hcount : fieldCount o.l2 o.x2 (decimalStart s) = shiftCount o s := by
    rw [fieldCount_eq, decimalStart, appended_setPc]; rfl
  have hdone := decimal_of_ready (written := wholeField)
    (t := shiftedState shifted (sourceOf reg1 o s) (shiftCount o s) (decimalStart s))
    (body := fun src _ s => (readField src s).bind fun bs u =>
      writeField src (bytesOfNibbles (signNibble bs :: shifted (fieldCount o.l2 o.x2 s) (digitsOf bs))) u) h ?_
  · rwa [hop] at hdone
  · rw [readField_memory h.source, Res.bind_ok, hcount]
    exact (writeField_memory h.source _).1

theorem exec_sftr_of_ready (h : DecimalReady .sftr reg1 reg2 o s) : exec (.sftr reg1 reg2 o) s =
    .next (shiftedState shiftedRight (sourceOf reg1 o s) (shiftCount o s) (decimalStart s)) := by
  show shiftDecimalRight reg1 reg2 o s = _
  exact decimalShift_of_ready rfl h

theorem exec_sftl_of_ready (h : DecimalReady .sftl reg1 reg2 o s) : exec (.sftl reg1 reg2 o) s =
    .next (shiftedState shiftedLeft (sourceOf reg1 o s) (shiftCount o s) (decimalStart s)) := by
  show shiftDecimalLeft reg1 reg2 o s = _
  exact decimalShift_of_ready rfl h

end

/-- The sign and the digits of a field that a shift leaves. -/
theorem shiftedState_content {shifted : Nat → List (BitVec 4) → List (BitVec 4)}
    (hshifted : ∀ n ds, (shifted n ds).length = ds.length) {f : Field} (h0 : 0 < f.len) (hfit : f.len ≤ 65536) (n : Nat)
    (s : State) :
    let after := fieldContent f (shiftedState shifted f n s)
    fieldSign after = fieldSign (fieldContent f s) ∧
      ∀ j, fieldDigit after j = (shifted n (digitsOf (fieldContent f s))).getD j 0 := by
  obtain ⟨hlen, hsign, hdigits⟩ := shiftedBytes_done hshifted n (bs := fieldContent f s) (by rwa [fieldContent_length])
  have hcontent : fieldContent f (shiftedState shifted f n s) = shiftedBytes shifted n (fieldContent f s) :=
    fieldContent_storedField hfit (hlen.trans (fieldContent_length f s)) s
  intro after
  rw [show after = _ from hcontent]
  exact ⟨hsign, fun j => by rw [← digitsOf_getD, hdigits]⟩

/-- Settles O52: the field read, and its digits written back shifted under the same sign. -/
theorem decimalShiftsComplete : Obligations.DecimalShiftsComplete := by
  intro reg1 reg2 o s src n before
  have h0 : 0 < src.len := Nat.succ_pos _
  have hlen : (digitsOf before).length = 2 * src.len - 1 := by rw [digitsOf_length, fieldContent_length]
  refine ⟨fun h => ?_, fun h => ?_⟩
  · obtain ⟨hsign, hdigits⟩ := shiftedState_content (fun _ _ => shiftedRight_length) h0 h.source_fits n (decimalStart s)
    refine ⟨_, exec_sftr_of_ready h, hsign, fun j hj => (hdigits j).trans ?_⟩
    have hshift := shiftedRight_getD (n := n) (hlen.symm ▸ hj)
    rwa [hlen, digitsOf_getD] at hshift
  · obtain ⟨hsign, hdigits⟩ := shiftedState_content (fun _ _ => shiftedLeft_length) h0 h.source_fits n (decimalStart s)
    refine ⟨_, exec_sftl_of_ready h, hsign, fun j hj => (hdigits j).trans ?_⟩
    have hshift := shiftedLeft_getD (n := n) (hlen.symm ▸ hj)
    rwa [digitsOf_getD] at hshift

/-! ## What a class C instruction changes (R324, R328) -/

/-- The right byte of a word follows its left byte, without a wrap (R62). -/
theorem rightAddress_toNat (a : Word) : ((a &&& 0xFFFE) + 1).toNat = (a &&& 0xFFFE).toNat + 1 := by
  have heven := evenWord_toNat a
  have hlt := (a &&& 0xFFFE).isLt
  rw [BitVec.toNat_add]
  show ((a &&& 0xFFFE).toNat + 1) % 65536 = _
  omega

/-- A word is as before where neither of its bytes has changed. -/
theorem SameMemoryBut.wordAt {bytes : List Word} {s t : State} (h : SameMemoryBut bytes s t) {w : Word}
    (hw : ∀ b ∈ bytesOfWord w, b ∉ bytes) : t.wordAt w = s.wordAt w := by
  have hbyte : ∀ b ∈ bytesOfWord w, t.byteAt b.toNat = s.byteAt b.toNat := fun b hb =>
    h b.toNat fun c hc he => hw b hb (BitVec.eq_of_toNat_eq he ▸ hc)
  have hleft := hbyte (w &&& 0xFFFE) (by simp [bytesOfWord])
  have hright := hbyte ((w &&& 0xFFFE) + 1) (by simp [bytesOfWord])
  rw [rightAddress_toNat] at hright
  rw [State.wordAt, State.wordAt, hleft, hright]

section
variable {op : DecimalOp} {reg1 reg2 : Reg} {o : DecOperands} {s : State}

/-- EQ and GT for the compares, no indicator for the others (R328). -/
def comparedMask (op : DecimalOp) : Word := if op = .cmpd ∨ op = .comp then 0x0003 else 0

/-- A class C instruction that can run completes; from its start it changes the field that it writes and, for the compares,
EQ and GT. -/
theorem exec_decimal_completes (h : DecimalReady op reg1 reg2 o s) : ∃ t, exec (decimalInstr op reg1 reg2 o) s = .next t ∧
    WritesOnly (comparedMask op) (writtenBytes op reg1 reg2 o s) (decimalStart s) t := by
  cases op with
  | zadd => exact ⟨_, exec_zadd_of_ready h, (zaddBytes_memory h.source (h.dest rfl)).2⟩
  | movr => exact ⟨_, exec_movr_of_ready h, (fieldMoves_memory h.source (h.dest rfl) byteAddressRight_mem).2⟩
  | movl => exact ⟨_, exec_movl_of_ready h, (fieldMoves_memory h.source (h.dest rfl) byteAddress_mem).2⟩
  | addd =>
    obtain ⟨t, hsum, hsame⟩ := decimalSum_completes (fun d v => d + v) h.source (h.dest rfl)
    exact ⟨t, exec_addd_of_ready h hsum, hsame⟩
  | subd =>
    obtain ⟨t, hsum, hsame⟩ := decimalSum_completes (fun d v => d - v) h.source (h.dest rfl)
    exact ⟨t, exec_subd_of_ready h hsum, hsame⟩
  | sftr => exact ⟨_, exec_sftr_of_ready h, (writeField_memory h.source _).2⟩
  | sftl => exact ⟨_, exec_sftl_of_ready h, (writeField_memory h.source _).2⟩
  | cmpd => exact ⟨_, exec_cmpd_of_ready h, comparedNumbers_writesOnly ..⟩
  | comp => exact ⟨_, exec_comp_of_ready h, setCompare_writesOnly ..⟩

/-- The temporary storage keeps the registers where the written field is apart from it. -/
theorem storage_kept {mask : Word} {written : List Word} {t : State} (h : WritesOnly mask written (decimalStart s) t)
    (hapart : ∀ b ∈ written, b ∉ storageBytes s) :
    (storageWords s).map t.wordAt = [s.reg .r5, s.reg .r6, s.reg .r7] := by
  obtain ⟨-, -, -, hmem, -⟩ := h
  rw [← decimalStart_storage]
  exact List.map_congr_left fun w hw =>
    hmem.wordAt fun b hb hb' => hapart b hb' (List.mem_flatMap.mpr ⟨w, hw, hb⟩)

end

/-- Settles O48: the registers saved, then the operation's own writes. -/
theorem decimalsComplete : Obligations.DecimalsComplete := by
  intro op reg1 reg2 o s h written
  obtain ⟨t, hexec, hwrites⟩ := exec_decimal_completes h
  obtain ⟨hpc, hsame⟩ := id hwrites
  refine ⟨t, hexec, hpc, ?_, storage_kept hwrites⟩
  exact ((decimalStart_same s).mono (List.Subset.refl _) (by simp) (by simp)).trans
    (hsame.mono (List.Subset.refl _) (by simp [comparedMask]) (by simp [written]))

end Sys2Proof.Machine

/-! PROOF. The forms of double length, class B and class C that are refused. -/

namespace Sys2Proof.Machine

section
variable {ar xr : Reg} {s : State}

/-- An implemented instruction whose body refuses. -/
theorem executeOn_of_refuse {ok : Model → Bool} {code : Code} {body : Ctx → State → Res Unit} {r : Refusal}
    (hok : ok s.par.model = true) (h : body (contextOf code s) (startOf code s) = .refuse r) :
    executeOn ok code body s = .refused r := by
  rw [executeOn_of_implemented hok]
  exact execute_of_refuse h

theorem onPair_refuses (hp : isPair ar = false) (body : State → Res Unit) (s : State) :
    onPair ar body s = .refuse .pairDesignator := by
  rw [onPair, hp]; rfl

theorem exec_doubleShiftX {op : ShiftOp} : exec (shiftXInstr true op ar xr) s = doubleShiftX op ar xr s := by
  cases op <;> rfl

theorem exec_doubleShiftK {op : ShiftOp} {pair : BitVec 2} {k : BitVec 5} :
    exec (doubleShiftKInstr op pair k) s = doubleShiftK op pair k s := by
  cases op <;> rfl

/-- Every class B instruction but MULT with an odd AR tests for a pair (R431). -/
theorem exec_fixedInstr_isPair {op : FixedOp} (h : op ≠ .mult) (m : MemOp) :
    ∃ body, exec (fixedInstr op ar m) s = fixedPoint op isPair ar m body s := by
  cases op with
  | mult => exact absurd rfl h
  | dsta | dsub | dadd | divd | dlod => exact ⟨_, rfl⟩

theorem fixedPoint_refuses {op : FixedOp} {m : MemOp} {body : Word → State → Res Unit}
    (hs : s.par.model.isScientific = true) (har : ar ∈ [Reg.r3, .r5, .r7]) (hn : noAddress m = false) :
    fixedPoint op isPair ar m body s = .refused .pairDesignator := by
  obtain ⟨h0, h1, hp⟩ : ar ≠ .r0 ∧ ar ≠ .r1 ∧ isPair ar = false := by revert ar; decide
  refine executeOn_of_refuse hs ?_
  rw [onAccumulator, if_neg (by simp [h0, h1, hn]), hp]
  rfl

end

/-- A class C instruction is the shared operation, with as many fields as it has (R321). -/
theorem exec_decimalInstr_twoFields (op : DecimalOp) (reg1 reg2 : Reg) (o : DecOperands) (s : State) :
    ∃ written body, exec (decimalInstr op reg1 reg2 o) s = decimal op (twoFields op) written reg1 reg2 o body s := by
  cases op <;> simp only [decimalInstr, exec, execZadd, zeroAndAdd, execAddd, addDecimal, execSubd, subtractDecimal, execCmpd,
    compareDecimal, execSftr, shiftDecimalRight, execSftl, shiftDecimalLeft, decimalShift, execMovr, moveRight, execMovl,
    moveLeft, execComp, compareFields, twoFields] <;> exact ⟨_, _, rfl⟩

/-- A class C instruction without a register that must name a field is refused (R322). -/
theorem decimal_refuses {op : DecimalOp} {two : Bool} {written : Field → Field → List Word} {reg1 reg2 : Reg}
    {o : DecOperands} {body : Field → Field → State → Res Unit} {s : State} (hs : s.par.model.isDecimal = true)
    (h7 : o.bit7 = false) (h3 : o.bit3 = false) (h : reg1 = .r0 ∨ two = true ∧ reg2 = .r0) :
    decimal op two written reg1 reg2 o body s = .refused .decimalRegisterZero := by
  refine executeOn_of_refuse hs ?_
  dsimp only
  rw [h7, h3, if_neg (by decide), if_pos (by simpa using h)]

/-- Settles O59: each test on the register that the instruction names. -/
theorem formsRefused : Obligations.FormsRefused := by
  intro s ar xr
  refine ⟨fun hs hp => ⟨fun op => ?_, fun op => ?_, fun op k => ?_⟩, fun op m hs har hop hn => ?_,
    fun op o hs h7 h3 => ⟨?_, fun htwo => ?_⟩⟩
  · rw [exec_normalizeDouble]
    exact executeOn_of_refuse hs (onPair_refuses hp ..)
  · rw [exec_doubleShiftX]
    exact executeOn_of_refuse hs (onPair_refuses hp ..)
  · rw [exec_doubleShiftK]
    exact executeOn_of_refuse hs (onPair_refuses (ar := pairReg 0) (by decide) ..)
  · obtain ⟨body, he⟩ := exec_fixedInstr_isPair (s := s) (ar := ar) hop m
    rw [he]
    exact fixedPoint_refuses hs har hn
  · obtain ⟨two, written, body, he⟩ := exec_decimalInstr op .r0 xr o s
    rw [he]
    exact decimal_refuses hs h7 h3 (.inl rfl)
  · obtain ⟨written, body, he⟩ := exec_decimalInstr_twoFields op ar .r0 o s
    rw [he]
    exact decimal_refuses hs h7 h3 (.inr ⟨htwo, rfl⟩)

end Sys2Proof.Machine

/-! PROOF. Bit manipulation and the register moves. -/

namespace Sys2Proof.Machine

/-! ## An operand read and a result written -/

section
variable {code : Code} {r : Reg} {s u : State}

/-- A register read as data where nothing but the program counter has been written (R27). -/
theorem SameBut.readsAs_dataReg (hs : SameBut [] 0 [] s u) : ReadsAs code r s (dataReg (contextOf code s) r u).1 := by
  obtain ⟨hregs, -, -, ⟨⟨-, hpar, -⟩, -⟩, -⟩ := hs
  exact Machine.readsAs_dataReg hpar fun h0 => hregs r h0 List.not_mem_nil

theorem SameBut.dataReg (hs : SameBut [] 0 [] s u) (c : Ctx) (r : Reg) : SameBut [] 0 [] s (dataReg c r u).2 :=
  hs.trans (sameBut_of_countFree (dataReg_state c r u))

theorem dataReg_pc (c : Ctx) (r : Reg) (u : State) : (dataReg c r u).2.pc = u.pc :=
  reg_of_countFree (dataReg_state c r u) .r0

/-- A result written with NG, ZE, OD from it, as MOV writes its source (R174). -/
theorem applyToReg_mov_done (ar : Reg) (v : Word) (u : State) :
    let t := applyToReg .mov ar v 0 u
    t.reg ar = v ∧ NzoOf v t.st ∧ (ar ≠ .r0 → t.pc = u.pc) ∧ SameBut [ar] 0x0700 [] u t := by
  obtain ⟨hvalue, hflags, hpc, hsame⟩ := registerDone_applyToReg (op := .mov) (ar := ar) (src := v) (tgt := 0)
    (.refl [] 0 [] u) rfl
  exact ⟨hvalue rfl, hflags, fun h0 => hpc (.inr h0), hsame⟩

end

/-! ## The bit operations (R360 to R369) -/

/-- The common test: the accumulator read, and CY telling whether it has a bit of the mask (R362). -/
def bitTested (c : Ctx) (ar : Reg) (m : Word) (s : State) : State :=
  let read := dataReg c ar s
  read.2.setSt (putFlag read.2.st .cy (read.1 &&& m != 0))

section
variable {c : Ctx} {code : Code} {op : BitOp} {ar : Reg} {m : Word} {s u : State}

theorem bitApply_tbit : bitApply c .tbit ar m s = (bitTested c ar m s).freeStatus 0x0700 := rfl

theorem bitApply_of_ne_tbit (h : op ≠ .tbit) :
    bitApply c op ar m s = applyToReg .mov ar (bitResult op (dataReg c ar s).1 m) 0 (bitTested c ar m s) := by
  cases op with
  | tbit => exact absurd rfl h
  | rbit | sbit | cbit | ibit | tsbt => rfl

theorem bitTested_cy : flag (bitTested c ar m s).st .cy = decide ((dataReg c ar s).1 &&& m ≠ 0) :=
  (flag_putFlag_self ..).trans (Bool.eq_iff_iff.mpr (by simp))

theorem bitTested_pc (c : Ctx) (ar : Reg) (m : Word) (s : State) : (bitTested c ar m s).pc = s.pc := dataReg_pc c ar s

theorem SameBut.bitTested (hs : SameBut [] 0 [] s u) : SameBut [] 0x0008 [] s (bitTested c ar m u) :=
  ((hs.dataReg c ar).mono (by simp) (by decide) (by simp)).trans (setSt_same (putFlag_same ..))

/-- The test and the operation, from a state where nothing but the program counter has been written. -/
theorem bitApply_done (hs : SameBut [] 0 [] s u) (hpc : u.pc = (contextOf code s).next) :
    BitDone code op ar m s (bitApply (contextOf code s) op ar m u) := by
  have htested := hs.bitTested (c := contextOf code s) (ar := ar) (m := m)
  have hnext := (bitTested_pc (contextOf code s) ar m u).trans hpc
  by_cases h : op = .tbit
  · subst h
    have hfree := freeStatus_same 0x0700 (bitTested (contextOf code s) ar m u)
    rw [bitApply_tbit]
    refine ⟨⟨_, hs.readsAs_dataReg, ?_, fun hne => absurd rfl hne⟩, fun _ => hnext,
      (htested.mono (by simp) (by decide) (by simp)).trans (hfree.mono (by simp) (by decide) (by simp))⟩
    rw [(freeStatus_bits ..).flag_eq (by decide), bitTested_cy]
  · obtain ⟨hvalue, hnzo, hkept, hsame⟩ := applyToReg_mov_done ar (bitResult op (dataReg (contextOf code s) ar u).1 m)
      (bitTested (contextOf code s) ar m u)
    rw [bitApply_of_ne_tbit h, BitDone, if_neg h, hvalue]
    refine ⟨⟨_, hs.readsAs_dataReg, ?_, fun _ => ⟨bitResult_value .., hnzo⟩⟩,
      fun h0 => (hkept (h0.resolve_left h)).trans hnext,
      (htested.mono (by simp) (by decide) (by simp)).trans (hsame.mono (by simp) (by decide) (by simp))⟩
    obtain ⟨-, hbits, -⟩ := hsame
    rw [hbits.flag_eq (by decide), bitTested_cy]

end

section
variable (op : BitOp) (ar xr : Reg) (k : BitVec 4) (mask : Word) (s : State)

theorem exec_bitXInstr : exec (bitXInstr op ar xr) s = bitX op ar xr s := by cases op <;> rfl

theorem exec_bitKInstr : exec (bitKInstr op ar k) s = bitK op ar k s := by cases op <;> rfl

theorem exec_bitMInstr : exec (bitMInstr op ar xr mask) s = bitM op ar xr mask s := by cases op <;> rfl

/-- The bit designated by the low four bits of a register (R360). -/
theorem bitMask_of_register (n : Word) : bitMask (n.extractLsb' 0 4) = 1#16 <<< (n.toNat % 16) := by
  rw [bitMask, extract_toNat, pow_zero, Nat.div_one]; rfl

variable (hs : s.par.model.isScientific = true)
include hs

theorem bitX_done : ∃ t n, bitX op ar xr s = .next t ∧ ReadsAs (bitXCode op ar xr) xr s n ∧
    BitDone (bitXCode op ar xr) op ar (1#16 <<< (n.toNat % 16)) s t := by
  generalize hcode : bitXCode op ar xr = code
  have hstart := startOf_same code s
  refine ⟨_, _, ?_, hstart.readsAs_dataReg,
    bitApply_done (hstart.dataReg (contextOf code s) xr) (dataReg_pc (contextOf code s) xr (startOf code s))⟩
  rw [bitX, executeOn_of_implemented hs, hcode, ← bitMask_of_register]
  exact execute_of_ok rfl

theorem bitK_done :
    ∃ t, bitK op ar k s = .next t ∧ BitDone (bitKCode op ar k) op ar (1#16 <<< k.toNat) s t := by
  refine ⟨_, ?_, bitApply_done (startOf_same (bitKCode op ar k) s) rfl⟩
  rw [bitK, executeOn_of_implemented hs]
  exact execute_of_ok rfl

theorem bitM_done : ∃ t, bitM op ar xr mask s = .next t ∧
    BitDone (bitMCode op ar xr mask) op ar (if xr = .r0 then mask else mask &&& s.reg xr) s t := by
  refine ⟨_, ?_, bitApply_done (startOf_same (bitMCode op ar xr mask) s) rfl⟩
  rw [bitM, executeOn_of_implemented hs]
  refine execute_of_ok ?_
  cases xr with
  | r0 | r1 | r2 | r3 | r4 | r5 | r6 | r7 => rfl

end

/-- Settles O42: by the form of the mask, each the common test and then the operation. -/
theorem bitOperationsComplete : Obligations.BitOperationsComplete := by
  intro op ar xr k mask s hs
  rw [exec_bitXInstr, exec_bitKInstr, exec_bitMInstr]
  exact ⟨bitX_done op ar xr s hs, bitK_done op ar k s hs, bitM_done op ar xr mask s hs⟩

/-! ## The register moves (R375 to R380) -/

/-- Bit 15 of a word is set from 8000 on. -/
theorem word_sign (v : Word) : v.getLsbD 15 = decide (32768 ≤ v.toNat) := BitVec.msb_eq_decide v

/-- The magnitude is the word itself below 8000 and its negative from there (R379). -/
theorem word_natAbs (v : Word) : v.toInt.natAbs = if v.getLsbD 15 then 65536 - v.toNat else v.toNat := by
  have hint := word_toInt v
  have hlt := v.isLt
  simp only [word_sign, decide_eq_true_eq]
  split <;> omega

/-- What a register move computes is the value that the rules give, for 0 and 8000 too (R377 to R380). -/
theorem moveResult_value (op : MoveOp) (v : Word) : MoveValue op v (moveResult op v) := by
  have habs := word_natAbs v
  have hlt := v.isLt
  cases op with
  | negt => exact BitVec.toNat_neg v
  | cplm => exact BitVec.toNat_not
  | movp =>
    simp only [MoveValue, moveResult, habs]
    split
    · have hneg : 32768 ≤ v.toNat := of_decide_eq_true (word_sign v ▸ ‹_›)
      rw [BitVec.toNat_neg]
      omega
    · rfl
  | movn =>
    simp only [MoveValue, moveResult, habs]
    split
    · omega
    · exact BitVec.toNat_neg v

/-- The registers of a word that has the fields C, bit 11, OP, I, AR, E, XR (R103). -/
theorem fieldsWord_or (c : BitVec 4) (b : Bool) (op : BitVec 3) (i : Bool) (ar : BitVec 3) (e : Bool) (xr : BitVec 3) :
    fieldsWord c b op i ar e xr = fieldsWord c b op i 0 e 0 ||| ar.setWidth 16 <<< 4 ||| xr.setWidth 16 := by
  unfold fieldsWord; grind

section
variable (op : MoveOp) (ar xr : Reg) (s : State)

theorem exec_moveInstr : exec (moveInstr op ar xr) s = moveRegister op ar xr s := by cases op <;> rfl

theorem moveRegister_done (hs : s.par.model.isScientific = true) :
    ∃ t v, moveRegister op ar xr s = .next t ∧ ReadsAs (moveCode op ar xr) xr s v ∧ MoveValue op v (t.reg ar) ∧
      NzoOf (t.reg ar) t.st ∧ (ar ≠ .r0 → t.pc = s.pc + 2) ∧ SameBut [ar] 0x0700 [] s t := by
  let code := moveCode op ar xr
  let read := dataReg (contextOf code s) xr (startOf code s)
  have hstart := startOf_same code s
  obtain ⟨hvalue, hnzo, hkept, hsame⟩ := applyToReg_mov_done ar (moveResult op read.1) read.2
  refine ⟨_, read.1, ?_, hstart.readsAs_dataReg, hvalue.symm ▸ moveResult_value op read.1, hvalue.symm ▸ hnzo,
    fun h0 => (hkept h0).trans (dataReg_pc ..), ((hstart.dataReg _ _).mono (by simp) (by simp) (by simp)).trans hsame⟩
  rw [moveRegister, executeOn_of_implemented hs]
  exact execute_of_ok rfl

end

/-- Settles O43: the words by their format, then the result written. -/
theorem registerMovesComplete : Obligations.RegisterMovesComplete := by
  intro op ar xr s hs word
  rw [(Format.move op ar xr).code_eq, exec_moveInstr]
  refine ⟨?_, moveRegister_done op ar xr s hs⟩
  cases op <;> exact congrArg (Code.mk · none) (fieldsWord_or ..)

end Sys2Proof.Machine

/-! PROOF. The state after reset, the blocks of the levels, and the return that undoes an entry. -/

namespace Sys2Proof.Machine

/-- Settles O9: each clause is a fact about the one state after reset. -/
theorem resetIsSound : Obligations.ResetIsSound := by
  have hmem : InMemory State.reset .word State.reset.pc := by unfold InMemory; decide
  exact ⟨⟨memorySound_reset, rfl, List.nodup_nil, rfl⟩, rfl, rfl, hmem⟩

/-- Settles O54: the system blocks are constants, the two others follow from the processor's number. -/
theorem levelBlocks : Obligations.LevelBlocks := by
  intro cpu
  rw [BitVec.ofNat_toNat]
  exact ⟨rfl, rfl, rfl, rfl, rfl, rfl⟩

/-- Settles O7: the row traps, and bit A of the status after an entry is the one that the entry itself sets. -/
theorem trapRowsTrap : Obligations.TrapRowsTrap := by
  refine fun w s => ⟨fun hb => trapRow_trapped hb, fun l st => ⟨entryStatus_active .., fun h => ?_⟩⟩
  rw [entryStatus, h]; rfl

/-- A word with bit A set is stored as it is (R40). -/
theorem statusWord_of_active {s : State} (h : active s.st = true) : s.statusWord = s.st := by
  refine BitVec.eq_of_getLsbD_eq fun i hi => ?_
  rw [State.statusWord, BitVec.getLsbD_or]
  by_cases h11 : i = 11
  · subst h11; rw [show s.st.getLsbD 11 = true from h]; rfl
  · have : activeMask.getLsbD i = false := by revert i; decide
    rw [this, Bool.or_false]

theorem wordAt_eq_of_bytes {s t : State} {a : Word} (h : ∀ b ∈ bytesOfWord a, t.byteAt b.toNat = s.byteAt b.toNat) :
    t.wordAt a = s.wordAt a := by
  rw [State.wordAt, State.wordAt, ← rightAddress_toNat, h _ (by simp [bytesOfWord]), h _ (by simp [bytesOfWord])]

/-- Settles O38: the entry's status word and return address are the two words that RETN reads. -/
theorem returnUndoesEntry : Obligations.ReturnUndoesEntry := by
  intro l info ret s t u d hb hact htake hbytes hpar hkey hd
  obtain ⟨t', htake', -, hst, hret, -⟩ := takeLevel_done (info := info) (ret := ret) hb
  obtain rfl : t' = t := Host.Outcome.next.inj (htake'.symm.trans htake)
  obtain ⟨h2, h4⟩ := List.forall_mem_append.mp hbytes
  have haddr : directAddress (contextOf (directCode .retn .absolute d) u) .absolute d =
      blockBase s.par.cpuId l + 2 := (directAddress_absolute ..).trans hd
  have hnext : blockBase s.par.cpuId l + 2 + 2 = blockBase s.par.cpuId l + 4 := BitVec.add_assoc ..
  have hsite (a : Word) (h : InMemory s .word a) : InMemory u .word a :=
    h.of_site fun _ => by rw [State.site, State.site, hpar, hkey]
  obtain ⟨-, hretn⟩ := statusLoadsComplete .absolute d u
  dsimp only at hretn
  rw [haddr, hnext, wordAt_eq_of_bytes h2, wordAt_eq_of_bytes h4, hst, hret, statusWord_of_active hact] at hretn
  rw [hretn (hsite _ (hb 2 (by simp))) (hsite _ (hb 4 (by simp)))]
  exact if_pos hact

end Sys2Proof.Machine

/-! PROOF. Multiplication and division of class B: results that fit in the pair, and the divide check. -/

namespace Sys2Proof.Machine

/-! ## Numbers that a pair can hold -/

/-- A number of 31 bits is exactly the pair's (R51). -/
theorem pairNumber_doubleOf_of_range {n : Int} (hlo : -(2 ^ 30) ≤ n) (hhi : n < 2 ^ 30) :
    pairNumber (doubleOf n) = n := by
  have hdvd := pairNumber_doubleOf n
  have hrange := pairNumber_range (doubleOf n)
  omega

/-- With 8000 counted as 0 a multiplier has a magnitude of at most 32767 (R434). -/
theorem multiplier_natAbs_le (v : Word) : (multiplier v).natAbs ≤ 32767 := by
  unfold multiplier
  split
  · decide
  · rename_i hne
    have hlo := v.le_toInt
    have hhi := v.toInt_lt
    have hmin : v.toInt ≠ -32768 := fun h => hne (BitVec.toInt_inj.mp h)
    omega

/-- A product and an addend of one word fit in 31 bits. -/
theorem product_range (x v y : Word) : -(2 ^ 30) ≤ x.toInt * multiplier v + y.toInt ∧
    x.toInt * multiplier v + y.toInt < 2 ^ 30 := by
  have hx := x.le_toInt
  have hx' := x.toInt_lt
  have hy := y.le_toInt
  have hy' := y.toInt_lt
  have hprod : (x.toInt * multiplier v).natAbs ≤ 32768 * 32767 := by
    rw [Int.natAbs_mul]
    exact Nat.mul_le_mul (by omega) (multiplier_natAbs_le v)
  omega

/-! ## The pair of an odd register -/

theorem pairOf_pairHigh (ar : Reg) (s : State) : pairOf (pairHigh ar) s = pairOf ar s := by
  cases ar <;> rfl

theorem setPairNZO_pairHigh (ar : Reg) (x : DoubleWord) (s : State) :
    setPairNZO (pairHigh ar) x s = setPairNZO ar x s := by
  cases ar <;> rfl

/-- A register of MULT, the low one of a pair (R431). -/
theorem oddReg_facts {ar : Reg} (h : ar ∈ [Reg.r3, .r5, .r7]) :
    ar ≠ .r0 ∧ ar ≠ .r1 ∧ ar.isOdd = true ∧ pairLow ar = ar ∧ isPair (pairHigh ar) = true := by
  revert h
  cases ar <;> decide

theorem pairHigh_of_isPair {ar : Reg} (h : isPair ar = true) : pairHigh ar = ar := by
  revert h
  cases ar <;> decide

/-- NG, ZE and OD stay those of the pair where other bits are written. -/
theorem Nzo2Of.of_same {x : DoubleWord} {mask st st' : Word} (h : Nzo2Of x st) (hs : SameBitsBut mask st st')
    (hm : ∀ i ∈ [Indicator.ng, .ze, .od], mask.getLsbD i.bit = false) : Nzo2Of x st' := by
  rwa [Nzo2Of, hs.flag_eq (hm .ng (by simp)), hs.flag_eq (hm .ze (by simp)), hs.flag_eq (hm .od (by simp))]

section
variable {ar : Reg} {m : MemOp} {s s1 : State} {a : Word} {code : Code}

/-- What a result n of 31 bits leaves in the pair of an even or odd register (R435, R436). -/
theorem product_done (hp : isPair (pairHigh ar) = true)
    (he : effectiveAddress (contextOf code s) .none .word m (startOf code s) = .ok a s1) {n : Int}
    (hn : -(2 ^ 30) ≤ n ∧ n < 2 ^ 30) :
    let t := setPairNZO ar (doubleOf n) s1
    pairNumber (pairOf ar t) = n ∧ SignAdjusted (pairOf ar t) ∧ Nzo2Of (pairOf ar t) t.st ∧
      t.pc = (contextOf code s).next ∧ FixedFrame ar 0x0700 [] s t := by
  intro t
  have hpair : pairOf ar t = doubleOf n := by
    rw [← pairOf_pairHigh, ← pairOf_setPairNZO hp (doubleOf n) s1, setPairNZO_pairHigh]
  have hpc : t.pc = s1.pc := by
    rw [← setPairNZO_pc hp (doubleOf n) s1, setPairNZO_pairHigh]
  rw [hpair]
  exact ⟨pairNumber_doubleOf_of_range hn.1 hn.2, signAdjusted_fixSign _, nzo2Of_setNZO2 .., hpc.trans (addressed_pc he),
    fixedFrame_of_body he (setPairNZO_same ..)⟩

/-- The same for a sum, after which CY is open (R436, D33). -/
theorem productSum_done (hp : isPair (pairHigh ar) = true)
    (he : effectiveAddress (contextOf code s) .none .word m (startOf code s) = .ok a s1) {n : Int}
    (hn : -(2 ^ 30) ≤ n ∧ n < 2 ^ 30) :
    let t := (setPairNZO ar (doubleOf n) s1).freeStatus Indicator.cy.mask
    pairNumber (pairOf ar t) = n ∧ SignAdjusted (pairOf ar t) ∧ Nzo2Of (pairOf ar t) t.st ∧
      t.pc = (contextOf code s).next ∧ FixedFrame ar 0x0708 [] s t := by
  obtain ⟨hnumber, hadjusted, hnzo, hpc, hregs, hbits, hkept⟩ := product_done hp he hn
  have hfree := freeStatus_bits (setPairNZO ar (doubleOf n) s1) Indicator.cy.mask
  exact ⟨hnumber, hadjusted, hnzo.of_same hfree (by decide), hpc, hregs,
    (hbits.mono (by decide)).trans (hfree.mono (by decide)), hkept⟩

theorem busRead_word_memory (h : InMemory s .word a) : busRead .word a s = .ok (s.wordAt a) s := busRead_memory h

end

/-- Settles O46: the product and the sum fit in 31 bits, so that the pair holds them exactly. -/
theorem multipliesComplete : Obligations.MultipliesComplete := by
  intro ar m s s1 a hs v
  refine ⟨fun hodd he hm => ?_, fun hp he hm => ?_⟩
  · obtain ⟨h0, h1, hisOdd, hlow, hp⟩ := oddReg_facts hodd
    have hrange : -(2 ^ 30) ≤ (s.reg ar).toInt * v ∧ (s.reg ar).toInt * v < 2 ^ 30 := by
      have h := product_range (s.reg ar) (s1.wordAt a) 0#16
      rwa [BitVec.toInt_zero, add_zero] at h
    refine ⟨_, fixedPoint_next hs h0 h1 hisOdd he ?_, product_done hp he hrange⟩
    rw [busRead_word_memory hm, Res.bind_ok, hlow, addressed_reg he h0]; rfl
  · obtain ⟨h0, h1, -, hl, -⟩ := isPair_regs hp
    have hhigh := pairHigh_of_isPair hp
    refine ⟨_, fixedPoint_next hs h0 h1 hp he ?_,
      productSum_done (hhigh.symm ▸ hp) he (product_range (s.reg (pairLow ar)) (s1.wordAt a) (s.reg ar))⟩
    rw [busRead_word_memory hm, Res.bind_ok]
    simp only [pairOf, hhigh, addressed_reg he h0, addressed_reg he hl]; rfl

/-! ## The divide check (R437) -/

/-- The smallest number of a pair is that of 8000 0000, whatever S' (R50). -/
theorem pairNumber_eq_min_iff (x : DoubleWord) :
    pairNumber x = -(2 ^ 30) ↔ x.h = 0x8000 ∧ x.l.extractLsb' 0 15 = 0 := by
  have hlt := x.h.isLt
  rw [low15_eq_zero_iff, ← BitVec.toNat_inj, pairNumber, word_toInt]
  simp only [BitVec.reduceToNat]
  omega

theorem divideCheck_iff (x : DoubleWord) (d : Int) (choice : Bool) : divideCheck x d choice = true ↔
    d = 0 ∨ pairNumber x = -(2 ^ 30) ∨
      if (pairNumber x).tdiv d = -32768 then choice = true else 32767 < ((pairNumber x).tdiv d).natAbs := by
  simp only [divideCheck, Bool.or_eq_true, Bool.and_eq_true, beq_iff_eq, or_assoc, dval_eq, pairNumber_eq_min_iff]
  split <;> simp only [decide_eq_true_eq]

/-- The operands for which DIVD is a divide check without a choice (D19). -/
def OutsideDivide (x d : Int) : Prop :=
  d = 0 ∨ x = -(2 ^ 30) ∨ 32769 ≤ (x.tdiv d).natAbs ∨ x.tdiv d = 32768

theorem not_outsideDivide_iff {x d : Int} : ¬OutsideDivide x d ↔
    d ≠ 0 ∧ x ≠ -(2 ^ 30) ∧ ¬32769 ≤ (x.tdiv d).natAbs ∧ x.tdiv d ≠ 32768 := by
  simp only [OutsideDivide, not_or, ne_eq]

theorem divideCheck_of_outside {x : DoubleWord} {d : Int} (h : OutsideDivide (pairNumber x) d) (choice : Bool) :
    divideCheck x d choice = true := by
  rw [divideCheck_iff]
  refine h.imp_right (Or.imp_right fun hq => ?_)
  rw [if_neg (by omega)]
  omega

/-- Elsewhere only a quotient of -32768 can be a divide check. -/
theorem divideCheck_of_inside {x : DoubleWord} {d : Int} (h : ¬OutsideDivide (pairNumber x) d) {choice : Bool} :
    divideCheck x d choice = true ↔ (pairNumber x).tdiv d = -32768 ∧ choice = true := by
  obtain ⟨hd, hx, hbig, hmax⟩ := not_outsideDivide_iff.mp h
  rw [divideCheck_iff, or_iff_right hd, or_iff_right hx]
  split
  · rename_i hq; exact (and_iff_right hq).symm
  · rename_i hq; exact iff_of_false (by omega) fun hc => hq hc.1

/-! ## Quotient and remainder (R437) -/

/-- A remainder is of the dividend's sign. -/
theorem tmod_mul_self_nonneg (x d : Int) : 0 ≤ x.tmod d * x := by
  rcases Int.le_total 0 x with h | h
  · exact Int.mul_nonneg (Int.tmod_nonneg d h) h
  · have hneg : 0 ≤ (-x).tmod d := Int.tmod_nonneg d (by omega)
    rw [Int.neg_tmod] at hneg
    exact Int.mul_nonneg_of_nonpos_of_nonpos (by omega) h

theorem tmod_natAbs_lt (x : Int) {d : Int} (h : d ≠ 0) : (x.tmod d).natAbs < d.natAbs := by
  rw [Int.natAbs_tmod]
  exact Nat.mod_lt _ (Int.natAbs_pos.mpr h)

/-- A number of 16 bits is exactly its word's. -/
theorem toInt_ofInt_of_range {n : Int} (hlo : -32768 ≤ n) (hhi : n ≤ 32767) : (BitVec.ofInt 16 n).toInt = n :=
  BitVec.toInt_ofInt_eq_self (by decide) (by omega) (by omega)

/-- `t` holds quotient and remainder of the pair of `s` by `d`, with the indicators of the quotient (R437, D19). -/
def Divided (ar : Reg) (d : Int) (s t : State) : Prop :=
  flag t.st .ov = flag s.st .ov ∧ NzoOf (pairOf ar t).l t.st ∧
    pairNumber (pairOf ar s) = (pairOf ar t).l.toInt * d + (pairOf ar t).h.toInt ∧
    (pairOf ar t).h.toInt.natAbs < d.natAbs ∧ 0 ≤ (pairOf ar t).h.toInt * pairNumber (pairOf ar s)

section
variable {ar : Reg} {m : MemOp} {s s1 : State} {a v : Word} {code : Code}

theorem dividePair_of_check (h : divideCheck (pairOf ar s) (multiplier v) s.freeBit = true) :
    dividePair ar v s =
      ((s.countFree.setSt (putFlag s.st .ov true)).freeRegs [pairHigh ar, pairLow ar]).freeStatus 0x0700 := if_pos h

theorem dividePair_of_not_check (h : ¬divideCheck (pairOf ar s) (multiplier v) s.freeBit = true) :
    dividePair ar v s =
      setPair ar ⟨BitVec.ofInt 16 ((dval (pairOf ar s)).tmod (multiplier v)),
          BitVec.ofInt 16 ((dval (pairOf ar s)).tdiv (multiplier v))⟩
        (s.countFree.setSt (setNZO s.st (BitVec.ofInt 16 ((dval (pairOf ar s)).tdiv (multiplier v))))) := if_neg h

variable (hp : isPair ar = true)
  (he : effectiveAddress (contextOf code s) .none .word m (startOf code s) = .ok a s1)
include hp he

/-- After a divide check OV is set; the pair and NG, ZE, OD may be anything (D19). -/
theorem divideCheck_done (h : divideCheck (pairOf ar s1) (multiplier v) s1.freeBit = true) :
    let t := dividePair ar v s1
    flag t.st .ov = true ∧ t.pc = (contextOf code s).next ∧ FixedFrame ar 0x0704 [] s t := by
  obtain ⟨-, -, hh, hl, -⟩ := isPair_regs hp
  rw [dividePair_of_check h]
  generalize hu : s1.countFree.setSt (putFlag s1.st .ov true) = u
  have hpc : u.pc = s1.pc := hu ▸ rfl
  have hov : flag u.st .ov = true := hu ▸ flag_putFlag_self ..
  have hsame : SameBut [] 0x0004 [] s1 u :=
    hu ▸ ((sameBut_of_countFree (.inr rfl)).mono (by simp) (by decide) (by simp)).trans (setSt_same (putFlag_same ..))
  refine ⟨((freeStatus_bits ..).flag_eq (by decide)).trans hov, ?_, fixedFrame_of_body he ?_⟩
  · exact (State.pc_setReg_ne _ _ _ hl).trans ((State.pc_setReg_ne _ _ _ hh).trans (hpc.trans (addressed_pc he)))
  · exact (((hsame.mono (by simp) (by decide) (by simp)).trans
      ((freeReg_same (pairHigh ar) u).mono (by simp) (by decide) (by simp))).trans
      ((freeReg_same (pairLow ar) _).mono (by simp) (by decide) (by simp))).trans
      ((freeStatus_same 0x0700 _).mono (by simp) (by decide) (by simp))

/-- A quotient of 16 bits and the remainder are written as they are. -/
theorem divided_done (h : ¬divideCheck (pairOf ar s1) (multiplier v) s1.freeBit = true)
    (hin : ¬OutsideDivide (pairNumber (pairOf ar s)) (multiplier v)) :
    let t := dividePair ar v s1
    Divided ar (multiplier v) s t ∧ t.pc = (contextOf code s).next ∧ FixedFrame ar 0x0704 [] s t := by
  obtain ⟨-, -, hh, hl, -⟩ := isPair_regs hp
  have hd := multiplier_natAbs_le v
  rw [dividePair_of_not_check h, addressed_pairOf he hp, dval_eq]
  unfold Divided
  generalize pairNumber (pairOf ar s) = x at hin ⊢
  generalize multiplier v = d at hin hd ⊢
  obtain ⟨hd0, -, hbig, hmax⟩ := not_outsideDivide_iff.mp hin
  have hlt := tmod_natAbs_lt x hd0
  have hquot : (BitVec.ofInt 16 (x.tdiv d)).toInt = x.tdiv d := toInt_ofInt_of_range (by omega) (by omega)
  have hrem : (BitVec.ofInt 16 (x.tmod d)).toInt = x.tmod d := toInt_ofInt_of_range (by omega) (by omega)
  generalize hu : s1.countFree.setSt (setNZO s1.st (BitVec.ofInt 16 (x.tdiv d))) = u
  have hst : u.st = setNZO s1.st (BitVec.ofInt 16 (x.tdiv d)) := hu ▸ rfl
  have hpc : u.pc = s1.pc := hu ▸ rfl
  have hsame : SameBut [] 0x0700 [] s1 u :=
    hu ▸ ((sameBut_of_countFree (.inr rfl)).mono (by simp) (by decide) (by simp)).trans (setSt_same (setNZO_same ..))
  dsimp only
  rw [pairOf_setPair hp]
  dsimp only
  rw [hquot, hrem]
  refine ⟨⟨?_, ?_, (Int.tdiv_mul_add_tmod x d).symm, hlt, tmod_mul_self_nonneg x d⟩, ?_, fixedFrame_of_body he ?_⟩
  · rw [← addressed_st he]
    exact hst ▸ (setNZO_same ..).flag_eq (by decide)
  · exact hst ▸ nzoOf_setNZO ..
  · exact (State.pc_setReg_ne _ _ _ hl).trans ((State.pc_setReg_ne _ _ _ hh).trans (hpc.trans (addressed_pc he)))
  · exact ((hsame.mono (by simp) (by decide) (by simp)).trans
      ((setReg_same u (pairHigh ar) _).mono (by simp) (by decide) (by simp))).trans
      ((setReg_same _ (pairLow ar) _).mono (by simp) (by decide) (by simp))

end

/-- Settles O47: the divide check or the division, as the operands and the free choice decide. -/
theorem divideCompletes : Obligations.DivideCompletes := by
  intro ar m s s1 a hs hp code x d he hm
  obtain ⟨h0, h1, -, -, -⟩ := isPair_regs hp
  have hx := addressed_pairOf he hp
  refine ⟨dividePair ar (s1.wordAt a) s1, fixedPoint_next hs h0 h1 hp he ?_, ?_⟩
  · rw [busRead_word_memory hm, Res.bind_ok]
  by_cases hout : OutsideDivide (pairNumber x) d
  · obtain ⟨hov, hpc, hframe⟩ := divideCheck_done (v := s1.wordAt a) hp he (hx ▸ divideCheck_of_outside hout _)
    exact ⟨hpc, hframe, (if_pos hout).mpr hov⟩
  · by_cases hc : divideCheck (pairOf ar s1) d s1.freeBit = true
    · obtain ⟨hov, hpc, hframe⟩ := divideCheck_done (v := s1.wordAt a) hp he hc
      obtain ⟨hq, -⟩ := (divideCheck_of_inside hout).mp (hx ▸ hc)
      exact ⟨hpc, hframe, (if_neg hout).mpr ((if_pos hq).mpr (.inl hov))⟩
    · obtain ⟨hdiv, hpc, hframe⟩ := divided_done (v := s1.wordAt a) hp he hc hout
      refine ⟨hpc, hframe, (if_neg hout).mpr ?_⟩
      split
      · exact .inr hdiv
      · exact hdiv

end Sys2Proof.Machine

/-! PROOF. The single normalizes: the loop's invariant and its limit, and the count added to register XR. -/

namespace Sys2Proof.Machine

/-! ## The steps and the limit -/

/-- `r` is the register `a` after n one-bit steps (R393 to R396). -/
def Scaled (op : NormOp) (a : Word) (n : Nat) (r : Word) : Prop :=
  match op with
  | .la => r.toInt = a.toInt * 2 ^ n
  | .ll => r.toNat = a.toNat * 2 ^ n
  | .ra => a.toInt = r.toInt * 2 ^ n
  | .rl => a.toNat = r.toNat * 2 ^ n

theorem scaled_zero (op : NormOp) (a : Word) : Scaled op a 0 a := by
  cases op <;> simp [Scaled]

/-- Where the sign and the next bit are the same, a step to the left doubles the number. -/
theorem toInt_shiftLeft_one {a : Word} (h : a.getLsbD 15 = a.getLsbD 14) : (a <<< 1).toInt = a.toInt * 2 := by
  have hlt := a.isLt
  rw [getLsbD_eq_decide, getLsbD_eq_decide, decide_eq_decide] at h
  rw [word_toInt, word_toInt, BitVec.toNat_shiftLeft, Nat.shiftLeft_eq]
  omega

/-- Where the first bit is 0, a step to the left doubles the word. -/
theorem toNat_shiftLeft_one {a : Word} (h : a.getLsbD 15 = false) : (a <<< 1).toNat = a.toNat * 2 := by
  have hlt := a.isLt
  rw [getLsbD_eq_decide, decide_eq_false_iff_not] at h
  rw [BitVec.toNat_shiftLeft, Nat.shiftLeft_eq]
  omega

/-- Where the last bit is 0, a step to the right halves the number. -/
theorem toInt_sshiftRight_one {a : Word} (h : a.getLsbD 0 = false) : a.toInt = (a.sshiftRight 1).toInt * 2 := by
  have hint := word_toInt a
  rw [getLsbD_eq_decide, decide_eq_false_iff_not] at h
  rw [BitVec.toInt_sshiftRight, Int.shiftRight_eq_div_pow]
  omega

/-- Where the last bit is 0, a step to the right halves the word. -/
theorem toNat_ushiftRight_one {a : Word} (h : a.getLsbD 0 = false) : a.toNat = (a >>> 1).toNat * 2 := by
  rw [getLsbD_eq_decide, decide_eq_false_iff_not] at h
  rw [BitVec.toNat_ushiftRight, Nat.shiftRight_eq_div_pow]
  omega

theorem scaled_step {op : NormOp} {a : Word} (n : Nat) (r : Word) (h : Scaled op a n r)
    (hs : normalizeStop op r = false) : Scaled op a (n + 1) (normalizeStep op r) := by
  cases op with
  | la => exact (toInt_shiftLeft_one (by simpa [normalizeStop] using hs)).trans (by rw [h, pow_succ, mul_assoc])
  | ll => exact (toNat_shiftLeft_one hs).trans (by rw [h, pow_succ, mul_assoc])
  | ra => exact h.trans (by rw [toInt_sshiftRight_one hs, pow_succ', mul_assoc]; rfl)
  | rl => exact h.trans (by rw [toNat_ushiftRight_one hs, pow_succ', mul_assoc]; rfl)

/-- At the limit of 15 steps a register other than zero has nothing left to shift. -/
theorem normalizeStop_of_limit {op : NormOp} {a r : Word} (h : Scaled op a 15 r) (h0 : a ≠ 0) :
    normalizeStop op r = true := by
  have ha := a.isLt
  have hr := r.isLt
  have hne : a.toNat ≠ 0 := fun e => h0 (BitVec.eq_of_toNat_eq e)
  cases op with
  | la =>
    simp only [Scaled, word_toInt] at h
    simp only [normalizeStop, getLsbD_eq_decide, bne_iff_ne, ne_eq, decide_eq_decide]
    omega
  | ra =>
    simp only [Scaled, word_toInt] at h
    simp only [normalizeStop, getLsbD_eq_decide, decide_eq_true_eq]
    omega
  | ll | rl =>
    simp only [Scaled] at h
    simp only [normalizeStop, getLsbD_eq_decide, decide_eq_true_eq]
    omega

/-- Steps and the stop condition are the normalized register (R393 to R396). -/
theorem normalized_of_stop {op : NormOp} {n : Nat} {a r : Word} (h : Scaled op a n r) (hs : normalizeStop op r = true) :
    Normalized op n a r := by
  cases op with
  | la => exact ⟨h, bne_iff_ne.mp hs⟩
  | ll | ra | rl => exact ⟨h, hs⟩

/-- The loop normalizes a register other than zero in at most 15 steps. -/
theorem normalizeLoop_single {op : NormOp} {a r : Word} {n : Nat} (h0 : a ≠ 0)
    (h : normalizeLoop (normalizeStop op) (normalizeStep op) 15 a 0 = (r, n)) : n ≤ 15 ∧ Normalized op n a r := by
  obtain ⟨hscaled, hn, hstop⟩ := normalizeLoop_invariant scaled_step 15 (scaled_zero op a) h
  refine ⟨by omega, normalized_of_stop hscaled (hstop.elim id fun e => ?_)⟩
  rw [e] at hscaled
  exact normalizeStop_of_limit hscaled h0

/-! ## The count -/

theorem State.setReg_reg_self (s : State) (r : Reg) : s.setReg r (s.reg r) = s := by
  cases r <;> rfl

/-- With XR = AR the count is added to the value just written (R391, D35). -/
theorem addCount_written (c : Ctx) (r : Reg) (n : Nat) (s : State) :
    addCount c r true n s = s.setReg r (s.reg r + BitVec.ofNat 16 n) := by
  unfold addCount
  split
  · rename_i hn
    rw [hn, show s.reg r + BitVec.ofNat 16 0 = s.reg r from BitVec.add_zero _, State.setReg_reg_self]
  · rfl

/-- A register other than XR is kept, the program counter too. -/
theorem addCount_reg_other {c : Ctx} {xr r : Reg} {n : Nat} {s : State} (h : xr ≠ r) :
    (addCount c xr false n s).reg r = s.reg r := by
  by_cases h0 : r = .r0
  · subst h0; exact addCount_pc h s
  · rw [addCount_reg h0, if_neg h]

/-! ## A single normalize -/

/-- The register and its indicators written. -/
def normalizedState (ar : Reg) (r : Word) (u : State) : State := (u.setSt (setNZO u.st r)).setReg ar r

section
variable {op : NormOp} {ar xr : Reg} {a r : Word} {n : Nat} {s u : State}

theorem exec_normalizeSingle : exec (normalizeInstr false op ar xr) s = normalizeSingle op ar xr s := by
  cases op <;> rfl

theorem normalizeSingle_zero (hs : s.par.model.isScientific = true)
    (hread : dataReg (contextOf (normalizeCode false op ar xr) s) ar (startOf (normalizeCode false op ar xr) s) = (0, u)) :
    normalizeSingle op ar xr s = .next (u.setSt (setNZO u.st 0)) := by
  unfold normalizeSingle
  rw [executeOn_of_implemented hs]
  refine execute_of_ok ?_
  dsimp only
  rw [hread]; rfl

theorem normalizeSingle_nonzero (hs : s.par.model.isScientific = true)
    (hread : dataReg (contextOf (normalizeCode false op ar xr) s) ar (startOf (normalizeCode false op ar xr) s) = (a, u))
    (h0 : a ≠ 0) (hl : normalizeLoop (normalizeStop op) (normalizeStep op) 15 a 0 = (r, n)) :
    normalizeSingle op ar xr s =
      .next (addCount (contextOf (normalizeCode false op ar xr) s) xr (xr == ar) n (normalizedState ar r u)) := by
  unfold normalizeSingle
  rw [executeOn_of_implemented hs]
  refine execute_of_ok ?_
  dsimp only
  rw [hread]
  dsimp only
  rw [if_neg h0, hl]; rfl

/-- A register read as data at the start of an instruction. -/
theorem dataReg_startOf (code : Code) (r : Reg) (s : State) :
    let read := dataReg (contextOf code s) r (startOf code s)
    ReadsAs code r s read.1 ∧ SameBut [] 0 [] s read.2 ∧ read.2.pc = (contextOf code s).next :=
  ⟨(startOf_same code s).readsAs_dataReg, (startOf_same code s).dataReg .., dataReg_pc ..⟩

theorem normalizedState_same : SameBut [ar] 0x0700 [] u (normalizedState ar r u) :=
  ((setSt_same (setNZO_same ..)).mono (by simp) (by simp) (by simp)).trans
    ((setReg_same ..).mono (by simp) (by simp) (by simp))

theorem normalizedState_pc (h : ar ≠ .r0) : (normalizedState ar r u).pc = u.pc := State.pc_setReg_ne _ _ _ h

end

/-- Settles O27: a zero operand, or the loop's result written and its count added. -/
theorem singleNormalizesComplete : Obligations.SingleNormalizesComplete := by
  intro op ar xr s hs code
  obtain ⟨hreads, hsame, hpc⟩ := dataReg_startOf code ar s
  obtain ⟨⟨a, u⟩, hread⟩ : ∃ p, dataReg (contextOf code s) ar (startOf code s) = p := ⟨_, rfl⟩
  rw [hread] at hreads hsame hpc
  rw [exec_normalizeSingle]
  by_cases h0 : a = 0
  · subst h0
    exact ⟨_, 0, normalizeSingle_zero hs hread, hreads, fun _ => ⟨nzoOf_setNZO .., hpc,
      (hsame.mono (by simp) (by simp) (by simp)).trans (setSt_same (setNZO_same ..))⟩, fun h => absurd rfl h⟩
  · obtain ⟨⟨r, n⟩, hloop⟩ : ∃ p, normalizeLoop (normalizeStop op) (normalizeStep op) 15 a 0 = p := ⟨_, rfl⟩
    obtain ⟨hn, hnorm⟩ := normalizeLoop_single h0 hloop
    refine ⟨_, a, normalizeSingle_nonzero hs hread h0 hloop, hreads, fun h => absurd h h0, fun _ =>
      ⟨n, r, hn, hnorm, ?_⟩⟩
    have hwrite : SameBut [ar] 0x0700 [] s (normalizedState ar r u) :=
      (hsame.mono (by simp) (by simp) (by simp)).trans normalizedState_same
    have hreg : (normalizedState ar r u).reg ar = r := State.reg_setReg_self ..
    have hnzo : NzoOf r (normalizedState ar r u).st := nzoOf_setNZO ..
    have hnext (h : ar ≠ .r0) : (normalizedState ar r u).pc = s.pc + 2 := (normalizedState_pc h).trans hpc
    generalize normalizedState ar r u = w at *
    by_cases hx : xr = ar
    · subst hx
      rw [beq_self_eq_true, addCount_written, hreg]
      exact ⟨hnzo, fun _ => State.reg_setReg_self .., fun h => absurd rfl h,
        fun h _ => (State.pc_setReg_ne _ _ _ h).trans (hnext h),
        (hwrite.mono (by simp) (by simp) (by simp)).trans ((setReg_same ..).mono (by simp) (by simp) (by simp))⟩
    · obtain ⟨hcount, hst⟩ := addCount_same (contextOf code s) xr n w
      obtain ⟨hothers, -, -, ⟨⟨-, hpar, -⟩, -⟩, -⟩ := id hwrite
      rw [beq_eq_false_iff_ne.mpr hx]
      refine ⟨hst ▸ hnzo, fun h => absurd h hx, fun _ => ⟨?_, fun hx0 => ?_, ?_⟩,
        fun h hx0 => (addCount_pc hx0 w).trans (hnext h),
        (hwrite.mono (by simp) (by simp) (by simp)).trans (hcount.mono (by simp) (by simp) (by simp))⟩
      · rw [addCount_reg_other hx, hreg]
      · rw [addCount_reg hx0, if_pos rfl, hothers xr hx0 (by simpa using hx)]
      · rintro rfl
        exact countedPc_addCount hpar (hnext (Ne.symm hx))

end Sys2Proof.Machine

/-! PROOF. The double shifts: the closed forms kept step by step, and what the instructions leave. -/

namespace Sys2Proof.Machine

/-! ## The one-bit steps as shifts and rotations of 31, 32 and 33 bits -/

theorem bits31_arithLeft (x : DoubleWord) : bits31 (arithLeft x) = bits31 x <<< 1 := by
  unfold bits31 arithLeft; grind

theorem bits31_arithRight (x : DoubleWord) : bits31 (arithRight x) = (bits31 x).sshiftRight 1 := by
  unfold bits31 arithRight; grind

theorem bits32_logicLeft_open (x : DoubleWord) : bits32 (logicLeft x false) = bits32 x <<< 1 := by
  unfold bits32 logicLeft; grind

theorem bits32_logicRight_open (x : DoubleWord) : bits32 (logicRight x false) = bits32 x >>> 1 := by
  unfold bits32 logicRight; grind

theorem bits32_logicLeft_closed (x : DoubleWord) :
    bits32 (logicLeft x (x.h.getLsbD 15)) = (bits32 x).rotateLeft 1 := by
  unfold bits32 logicLeft; grind

theorem bits32_logicRight_closed (x : DoubleWord) :
    bits32 (logicRight x (x.l.getLsbD 0)) = (bits32 x).rotateRight 1 := by
  unfold bits32 logicRight; grind

/-- CY in front of the pair (R409, R413). -/
def linkedPair (y : DoubleShifting) : BitVec 33 := BitVec.ofBool y.cy ++ bits32 y.x

theorem linkedPair_step_lll (y : DoubleShifting) :
    linkedPair (doubleShiftStep .lll y) = (linkedPair y).rotateLeft 1 := by
  unfold linkedPair doubleShiftStep bits32 logicLeft; grind

theorem linkedPair_step_rll (y : DoubleShifting) :
    linkedPair (doubleShiftStep .rll y) = (linkedPair y).rotateRight 1 := by
  unfold linkedPair doubleShiftStep bits32 logicRight; grind

/-- The pair and CY are those of a linked word. -/
theorem linkedPair_eq_iff (y : DoubleShifting) (z : BitVec 33) :
    linkedPair y = z ↔ bits32 y.x = z.extractLsb' 0 32 ∧ y.cy = z.getLsbD 32 := by
  unfold linkedPair; grind

/-! ## The overflow of DLAO -/

theorem toInt_bits31 (x : DoubleWord) : (bits31 x).toInt = pairNumber x := by
  have hh := x.h.isLt
  rw [BitVec.toInt_eq_toNat_cond, bits31_toNat, pairNumber, word_toInt]
  split <;> omega

/-- The two top bits of the 31 are those of the high word. -/
theorem bits31_top (x : DoubleWord) :
    (bits31 x).getLsbD 29 = x.h.getLsbD 14 ∧ (bits31 x).getLsbD 30 = x.h.getLsbD 15 := by
  unfold bits31; grind

/-- Doubling leaves the range where the number already has, or where the two top bits of its 31 differ. -/
theorem outOfRange_double31 (p : Int) : outOfRange 31 (p * 2) =
    (outOfRange 31 p || ((BitVec.ofInt 31 p).getLsbD 29 != (BitVec.ofInt 31 p).getLsbD 30)) := by
  have hnat : ((BitVec.ofInt 31 p).toNat : Int) = p % 2147483648 := by rw [BitVec.toNat_ofInt]; omega
  rw [getLsbD_eq_decide, getLsbD_eq_decide, Bool.eq_iff_iff]
  simp only [outOfRange, Bool.or_eq_true, decide_eq_true_eq, bne_iff_ne, ne_eq, decide_eq_decide]
  omega

/-- The product's low 31 bits are those of the number shifted. -/
theorem ofInt_product31 (x : DoubleWord) (n : Nat) : BitVec.ofInt 31 (pairNumber x * 2 ^ n) = bits31 x <<< n := by
  rw [← toInt_bits31, BitVec.ofInt_mul, BitVec.ofInt_toInt, BitVec.shiftLeft_eq_mul_twoPow]
  congr 1
  refine BitVec.eq_of_toNat_eq ?_
  rw [BitVec.toNat_ofInt, BitVec.toNat_twoPow]
  norm_cast

/-- One more step of DLAO overflows where the sign changes in it (R408). -/
theorem outOfRange_step31 {x y : DoubleWord} {n : Nat} (h : bits31 y = bits31 x <<< n) :
    outOfRange 31 (pairNumber x * 2 ^ (n + 1)) =
      (outOfRange 31 (pairNumber x * 2 ^ n) || (y.h.getLsbD 14 != y.h.getLsbD 15)) := by
  obtain ⟨h14, h15⟩ := bits31_top y
  rw [pow_succ, ← mul_assoc, outOfRange_double31, ofInt_product31, ← h, h14, h15]

theorem doubleShiftedOverflow_zero (op : ShiftOp) (ov : Bool) (x : DoubleWord) :
    doubleShiftedOverflow op 0 ov x = ov := by
  have hrange : outOfRange 31 (pairNumber x * 2 ^ 0) = false := by
    have := pairNumber_range x
    simp only [outOfRange, Bool.or_eq_false_iff, decide_eq_false_iff_not]
    omega
  cases op with
  | lao => rw [doubleShiftedOverflow, hrange, Bool.or_false]
  | lll | llo | llc | rao | rll | rlo | rlc => rfl

/-! ## The steps against the closed forms -/

/-- As `DoubleShifted`, before the arithmetic shifts adjust S' (R407). -/
def DoubleMoved (op : ShiftOp) (n : Nat) (cy : Bool) (x y : DoubleWord) : Prop :=
  match op with
  | .lao => bits31 y = bits31 x <<< n
  | .rao => bits31 y = (bits31 x).sshiftRight n
  | .lll | .llo | .llc | .rll | .rlo | .rlc => DoubleShifted op n cy x y

/-- `y` is `x` after n one-bit steps, in closed form (R407). -/
def DoubleSteps (op : ShiftOp) (x : DoubleShifting) (n : Nat) (y : DoubleShifting) : Prop :=
  DoubleMoved op n x.cy x.x y.x ∧ y.cy = doubleShiftedCarry op n x.cy x.x ∧ y.ov = doubleShiftedOverflow op n x.ov x.x

/-- For the linked shifts the pair and CY have their closed forms where the 33 bits are rotated. -/
theorem doubleSteps_lll_iff {x y : DoubleShifting} {n : Nat} :
    DoubleSteps .lll x n y ↔ linkedPair y = (linkedPair x).rotateLeft n ∧ y.ov = x.ov := by
  rw [linkedPair_eq_iff, and_assoc]; rfl

theorem doubleSteps_rll_iff {x y : DoubleShifting} {n : Nat} :
    DoubleSteps .rll x n y ↔ linkedPair y = (linkedPair x).rotateRight n ∧ y.ov = x.ov := by
  rw [linkedPair_eq_iff, and_assoc]; rfl

theorem doubleSteps_zero (op : ShiftOp) (x : DoubleShifting) : DoubleSteps op x 0 x := by
  have hov := (doubleShiftedOverflow_zero op x.ov x.x).symm
  cases op with
  | lll => exact doubleSteps_lll_iff.mpr ⟨(rotateLeft_zero _).symm, rfl⟩
  | rll => exact doubleSteps_rll_iff.mpr ⟨(rotateRight_zero _).symm, rfl⟩
  | lao | llo => exact ⟨(BitVec.shiftLeft_zero _).symm, rfl, hov⟩
  | llc => exact ⟨(rotateLeft_zero _).symm, rfl, rfl⟩
  | rao => exact ⟨BitVec.sshiftRight_zero.symm, rfl, rfl⟩
  | rlo => exact ⟨(BitVec.ushiftRight_zero _).symm, rfl, rfl⟩
  | rlc => exact ⟨(rotateRight_zero _).symm, rfl, rfl⟩

theorem doubleSteps_step {op : ShiftOp} {x y : DoubleShifting} {n : Nat} (hn : n + 1 < 32) (h : DoubleSteps op x n y) :
    DoubleSteps op x (n + 1) (doubleShiftStep op y) := by
  obtain ⟨hx, hcy, hov⟩ := id h
  cases op with
  | lao =>
    obtain ⟨-, htop⟩ := bits31_top y.x
    replace hx : bits31 y.x = bits31 x.x <<< n := hx
    refine ⟨?_, ?_, ?_⟩
    · exact (bits31_arithLeft y.x).trans (by rw [hx, BitVec.shiftLeft_add])
    · simp only [doubleShiftStep, doubleShiftedCarry, ← htop, hx, BitVec.getLsbD_shiftLeft]
      grind
    · simp only [doubleShiftStep, doubleShiftedOverflow, hov, outOfRange_step31 hx, Bool.or_assoc]
  | lll =>
    obtain ⟨hlink, -⟩ := doubleSteps_lll_iff.mp h
    refine doubleSteps_lll_iff.mpr ⟨?_, hov⟩
    rw [linkedPair_step_lll, hlink, rotateLeft_succ (linkedPair x) (show n + 1 < 33 by omega)]
  | rll =>
    obtain ⟨hlink, -⟩ := doubleSteps_rll_iff.mp h
    refine doubleSteps_rll_iff.mpr ⟨?_, hov⟩
    rw [linkedPair_step_rll, hlink, rotateRight_succ (linkedPair x) (show n + 1 < 33 by omega)]
  | llo => exact ⟨(bits32_logicLeft_open y.x).trans (by rw [hx, BitVec.shiftLeft_add]), hcy, hov⟩
  | llc => exact ⟨(bits32_logicLeft_closed y.x).trans (by rw [hx, rotateLeft_succ _ hn]), hcy, hov⟩
  | rao =>
    replace hx : bits31 y.x = (bits31 x.x).sshiftRight n := hx
    exact ⟨(bits31_arithRight y.x).trans (by rw [hx, BitVec.sshiftRight_add]), hcy, hov⟩
  | rlo => exact ⟨(bits32_logicRight_open y.x).trans (by rw [hx, BitVec.shiftRight_add]), hcy, hov⟩
  | rlc => exact ⟨(bits32_logicRight_closed y.x).trans (by rw [hx, rotateRight_succ _ hn]), hcy, hov⟩

theorem doubleShiftTimes_succ (op : ShiftOp) (n : Nat) :
    ∀ x, doubleShiftTimes op (n + 1) x = doubleShiftStep op (doubleShiftTimes op n x) := by
  induction n with
  | zero => exact fun _ => rfl
  | succ n ih => exact fun x => ih (doubleShiftStep op x)

/-- Fewer than 32 one-bit steps have the closed form (R407). -/
theorem doubleSteps_doubleShiftTimes (op : ShiftOp) (x : DoubleShifting) {n : Nat} (hn : n < 32) :
    DoubleSteps op x n (doubleShiftTimes op n x) := by
  induction n with
  | zero => exact doubleSteps_zero op x
  | succ n ih => exact doubleShiftTimes_succ op n x ▸ doubleSteps_step hn (ih (Nat.lt_of_succ_lt hn))

theorem bits31_fixSign (x : DoubleWord) : bits31 (fixSign x) = bits31 x := by
  rw [bits31, bits31, fixSign_low15]; rfl

/-- With S' adjusted after one step or more the pair is the shifted one (R407, D7). -/
theorem doubleShifted_finish {op : ShiftOp} {n : Nat} {cy : Bool} {x y : DoubleWord} (h : DoubleMoved op n cy x y)
    (h0 : n = 0 → y = x) : DoubleShifted op n cy x (doubleShiftFinish op n y) := by
  have hadjust : bits31 (if n = 0 then y else fixSign y) = bits31 y ∧
      if n = 0 then (if n = 0 then y else fixSign y) = x else SignAdjusted (if n = 0 then y else fixSign y) := by
    split
    · exact ⟨rfl, h0 ‹_›⟩
    · exact ⟨bits31_fixSign y, signAdjusted_fixSign y⟩
  obtain ⟨hbits, hsign⟩ := hadjust
  cases op with
  | lao | rao => exact ⟨hbits.trans h, hsign⟩
  | lll | llo | llc | rll | rlo | rlc => exact h

/-! ## What a double shift leaves -/

theorem isPair_pairReg {b : BitVec 2} (h : b ≠ 0) : isPair (pairReg b) = true := by
  revert b; decide

section
variable {op : ShiftOp} {ar : Reg} {n : Nat} {s u : State}

/-- A pair is the same where its registers are. -/
theorem SameBut.pairOf_eq {mask : Word} {bytes : List Word} (h : SameBut [] mask bytes s u) (hp : isPair ar = true) :
    pairOf ar u = pairOf ar s := by
  obtain ⟨-, -, hh, hl, -⟩ := isPair_regs hp
  obtain ⟨hregs, -⟩ := h
  rw [pairOf, pairOf, hregs _ hh List.not_mem_nil, hregs _ hl List.not_mem_nil]

/-- The pair and the indicators written, where nothing but the program counter has been written (R407). -/
theorem doubleShiftDone_of_shifted {x : DoubleWord} {cy ov : Bool} (hp : isPair ar = true) (hs : SameBut [] 0 [] s u)
    (hpc : u.pc = s.pc + 2) (hx : DoubleShifted op n (flag s.st .cy) (pairOf ar s) x)
    (hcy : cy = doubleShiftedCarry op n (flag s.st .cy) (pairOf ar s))
    (hov : ov = doubleShiftedOverflow op n (flag s.st .ov) (pairOf ar s)) :
    DoubleShiftDone op ar n s (setPairNZO ar x (u.setSt (putFlag (putFlag u.st .cy cy) .ov ov))) := by
  have hflags : SameBut [] 0x000C [] u (u.setSt (putFlag (putFlag u.st .cy cy) .ov ov)) :=
    setSt_same (((putFlag_same ..).mono (by decide)).trans ((putFlag_same ..).mono (by decide)))
  rw [DoubleShiftDone, pairOf_setPairNZO hp, setPairNZO_pc hp, setPairNZO_st, (setNZO2_same ..).flag_eq (by decide),
    (setNZO2_same ..).flag_eq (by decide), State.setSt_st, (putFlag_same ..).flag_eq (by decide), flag_putFlag_self,
    flag_putFlag_self]
  exact ⟨hx, hcy, hov, nzo2Of_setNZO2 .., hpc,
    ((hs.mono (by simp) (by decide) (by simp)).trans (hflags.mono (by simp) (by decide) (by simp))).trans
      ((setPairNZO_same ..).mono (by simp) (by decide) (by simp))⟩

/-- A double shift by fewer than 32 from a state where nothing but the program counter has been written (R407). -/
theorem doubleShiftBy_done (hp : isPair ar = true) (hs : SameBut [] 0 [] s u) (hpc : u.pc = s.pc + 2) (hn : n < 32) :
    DoubleShiftDone op ar n s (doubleShiftBy op ar n u) := by
  obtain ⟨hmoved, hcy, hov⟩ := doubleSteps_doubleShiftTimes op ⟨pairOf ar s, flag s.st .cy, flag s.st .ov⟩ hn
  have hzero : n = 0 → (doubleShiftTimes op n ⟨pairOf ar s, flag s.st .cy, flag s.st .ov⟩).x = pairOf ar s := by
    rintro rfl; rfl
  have hby := doubleShiftDone_of_shifted hp hs hpc (doubleShifted_finish hmoved hzero) hcy hov
  rwa [← hs.pairOf_eq hp, ← hs.st_eq] at hby

end

section
variable (op : ShiftOp) (ar xr : Reg) (pair : BitVec 2) (k : BitVec 5) (s : State)

theorem exec_doubleShiftKInstr : exec (doubleShiftKInstr op pair k) s = doubleShiftK op pair k s := by cases op <;> rfl

theorem exec_doubleShiftXInstr : exec (shiftXInstr true op ar xr) s = doubleShiftX op ar xr s := by cases op <;> rfl

variable (hs : s.par.model.isScientific = true)
include hs

theorem doubleShiftK_next (hp : isPair (pairReg pair) = true) : doubleShiftK op pair k s =
    .next (doubleShiftBy op (pairReg pair) k.toNat (startOf (doubleShiftKCode op pair k) s)) := by
  rw [doubleShiftK, executeOn_of_implemented hs]
  exact execute_of_ok (if_pos hp)

/-- The count is the low five bits of the register read as data (R406, D17). -/
theorem doubleShiftX_next (hp : isPair ar = true) :
    let code := shiftXCode true op ar xr
    let read := dataReg (contextOf code s) xr (startOf code s)
    doubleShiftX op ar xr s = .next (doubleShiftBy op ar (read.1.toNat % 32) read.2) := by
  intro code read
  have hcount : (read.1.extractLsb' 0 5).toNat = read.1.toNat % 32 := by
    rw [extract_toNat, pow_zero, Nat.div_one]; rfl
  rw [← hcount, doubleShiftX, executeOn_of_implemented hs]
  exact execute_of_ok (if_pos hp)

end

/-- Settles O29: the closed forms of the steps, with the count from K or from the register. -/
theorem doubleShiftsComplete : Obligations.DoubleShiftsComplete := by
  intro op ar xr pair k s hs
  rw [exec_doubleShiftKInstr, exec_doubleShiftXInstr]
  refine ⟨⟨rfl, rfl, rfl⟩, fun hpair => ?_, fun hp => ?_⟩
  · have hp := isPair_pairReg hpair
    exact ⟨_, doubleShiftK_next op pair k s hs hp, doubleShiftBy_done hp (startOf_same ..) rfl k.isLt⟩
  · obtain ⟨hreads, hsame, hpc⟩ := dataReg_startOf (shiftXCode true op ar xr) xr s
    exact ⟨_, _, doubleShiftX_next op ar xr s hs hp, hreads, doubleShiftBy_done hp hsame hpc (Nat.mod_lt _ (by decide))⟩

end Sys2Proof.Machine
